-- ==== Sys2Proof/Word.lean ====
section
/-! DEFINITION. The words of the KM12: what the spec treats as bits or as an index of a fixed range. -/

namespace Sys2Proof

/-- One character's eight data bits, one byte of a frame's body (R147, R172). -/
abbrev Byte := BitVec 8

/-- A sheet number: 32 bits, wrapping (section 7.3 of the Introduction, R89). -/
abbrev Sheet := BitVec 32

/-- A tower number, which is also the number of its drive port (R1). -/
abbrev TowerIx := Fin 12

/-- A curve number (R40). -/
abbrev CurveIx := Fin 16

end Sys2Proof
end

