-- ==== Sys2Proof/Config.lean ====
section
/-! DEFINITION. What the part fixes: the identity values of R168 and the bounds and times the rules name.
The spec leaves no value of the machine open, so there is no free value here. -/

namespace Sys2Proof.Config

/-- Vendor code returned by IDENTIFY (R168). -/
abbrev vendorCode : Nat := 0x5A4B

/-- Part code returned by IDENTIFY (R168). -/
abbrev partCode : Nat := 0x0C12

/-- Revision of the part this specification describes (R168). -/
abbrev revision : Nat := 0x01

/-- Towers of the part (R1, R168). -/
abbrev towers : Nat := 12

/-- Most keys of a tower (R6, R168). -/
abbrev maxKeys : Nat := 48

/-- Curves of the part (R40, R168). -/
abbrev curves : Nat := 16

/-- Most points of a curve (R40, R168). -/
abbrev maxPoints : Nat := 12

/-- Most records of the Fault List (R161). -/
abbrev maxFaultRecords : Nat := 32

/-- What an ask timer runs for, in milliseconds (R123, R138). -/
abbrev askTimerMs : Nat := 500

/-- What an inter-character timer runs for, in milliseconds (R146, R143). -/
abbrev interCharacterMs : Nat := 5

/-- Largest length byte of a frame (R147, R143). -/
abbrev maxFrameLength : Nat := 250

/-- The synchronising character (R147). -/
abbrev syncCharacter : Byte := 0xA5#8

end Sys2Proof.Config
end

