-- ==== Sys2Proof/Syntax.lean ====
section
/-! DEFINITION. The commands of the KM12: one constructor of `Instr` for each row of spec/opcode_table.json.

A row that is a master request carries the port its frame arrived on and the body bytes that follow the function byte, so
that lengths, encodings and ranges are checked by the meaning and not by the type (R151 to R156, R172 to R176). -/

namespace Sys2Proof

/-- The three master ports; the rank of each is fixed by its pins (R146). -/
inductive MasterPort where
  | console
  | plate
  | scanner
  deriving DecidableEq, Repr

/-- The master functions (R152, R173). -/
inductive MasterFn where
  | identify | sheetGet | towerStatus | keyStatus | configGet | faultsTake
  | windowSet | writeModeSet | zonesWrite | zonesFill | zonesRead | zonesAbove | slotClear | slotTagSet
  | curveSelect | curvePut | curveGet | curveClear
  | measure
  | configSet | engage | disengage | jobChange | hold | release | trimSet | trimNudge | clearKeyFault | accessSet | restart
  deriving DecidableEq, Repr

/-- The kinds a drive module may report in FAULT (R130, R173). -/
inductive ReportKind where
  | stall
  | overrange
  | driver
  deriving DecidableEq, Repr

/-- One character on a line: eight data bits and a parity bit (R147). -/
structure Character where
  data : Byte
  parity : Bool
  deriving DecidableEq, Repr

/-- A report of a drive module (R130). -/
inductive Report where
  | done (key : Byte) (position : BitVec 16)
  | fault (key : Byte) (kind : ReportKind) (position : BitVec 16)
  | pos (key : Byte) (position : BitVec 16)
  deriving DecidableEq, Repr

/-- The commands: the operations and events of spec/opcode_table.json, one constructor a row. -/
inductive Instr where
  /-- Power comes on (R138). -/
  | powerOn
  /-- A valid pulse on the sheet pulse input (R89). -/
  | sheetPulse
  | identify (port : MasterPort) (args : List Byte)
  | sheetGet (port : MasterPort) (args : List Byte)
  | towerStatus (port : MasterPort) (args : List Byte)
  | keyStatus (port : MasterPort) (args : List Byte)
  | configGet (port : MasterPort) (args : List Byte)
  | faultsTake (port : MasterPort) (args : List Byte)
  | windowSet (port : MasterPort) (args : List Byte)
  | writeModeSet (port : MasterPort) (args : List Byte)
  | zonesWrite (port : MasterPort) (args : List Byte)
  | zonesFill (port : MasterPort) (args : List Byte)
  | zonesRead (port : MasterPort) (args : List Byte)
  | zonesAbove (port : MasterPort) (args : List Byte)
  | slotClear (port : MasterPort) (args : List Byte)
  | slotTagSet (port : MasterPort) (args : List Byte)
  | curveSelect (port : MasterPort) (args : List Byte)
  | curvePut (port : MasterPort) (args : List Byte)
  | curveGet (port : MasterPort) (args : List Byte)
  | curveClear (port : MasterPort) (args : List Byte)
  | measure (port : MasterPort) (args : List Byte)
  | configSet (port : MasterPort) (args : List Byte)
  | engage (port : MasterPort) (args : List Byte)
  | disengage (port : MasterPort) (args : List Byte)
  | jobChange (port : MasterPort) (args : List Byte)
  | hold (port : MasterPort) (args : List Byte)
  | release (port : MasterPort) (args : List Byte)
  | trimSet (port : MasterPort) (args : List Byte)
  | trimNudge (port : MasterPort) (args : List Byte)
  | clearKeyFault (port : MasterPort) (args : List Byte)
  | accessSet (port : MasterPort) (args : List Byte)
  | restart (port : MasterPort) (args : List Byte)
  /-- The last character of the RESTART reply has been sent (R144). -/
  | restartTakesEffect
  /-- A good frame whose function code names no master function (R152). -/
  | unknownFunction (port : MasterPort) (code : Byte) (args : List Byte)
  /-- A master frame ends bad; `first` is its first body byte, none after a bad length (R148). -/
  | masterBadFrame (port : MasterPort) (first : Option Byte)
  /-- A master port's inter-character timer expires (R147). -/
  | masterFrameAbandon (port : MasterPort)
  | done (tower : TowerIx) (key : Byte) (position : BitVec 16)
  | fault (tower : TowerIx) (key : Byte) (kind : ReportKind) (position : BitVec 16)
  | pos (tower : TowerIx) (key : Byte) (position : BitVec 16)
  /-- A frame on a drive port ends bad (R143). -/
  | drivePortBadFrame (tower : TowerIx)
  /-- A drive port's inter-character timer expires (R143). -/
  | driveFrameAbandon (tower : TowerIx)
  /-- The move timer of a key expires (R133). -/
  | moveTimerExpiry (tower : TowerIx) (key : Nat)
  /-- The ask timer of a key expires (R139). -/
  | askTimerExpiry (tower : TowerIx) (key : Nat)
  /-- A character arrives on a master link (R147). -/
  | masterLinkCharacter (port : MasterPort) (ch : Character)
  /-- A character arrives on a drive port (R143). -/
  | drivePortCharacter (tower : TowerIx) (ch : Character)
  /-- The last character of a reply has left a master port (R148). -/
  | replySent (port : MasterPort)
  /-- The last character of a MOVE, ASK or SWEEP has left a drive port (R129). -/
  | drivePortMessageSent (tower : TowerIx)
  deriving DecidableEq, Repr

end Sys2Proof
end

