-- ==== Sys2Proof/Decode.lean ====
section
/-! DEFINITION. The codes of the master functions and drive-port reports (R173), the reading of a good frame's body as a
command (R152, R143, R178), and the host's `decodeTableWord`. The rows of spec/opcode_table.json give no bits, so no word
of the table spells a command. -/

namespace Sys2Proof

/-- The function codes of the master links (R173). -/
def MasterFn.code : MasterFn → Byte
  | .identify => 0x01#8 | .sheetGet => 0x02#8 | .towerStatus => 0x03#8 | .keyStatus => 0x04#8
  | .configGet => 0x05#8 | .faultsTake => 0x06#8
  | .windowSet => 0x10#8 | .writeModeSet => 0x11#8 | .zonesWrite => 0x12#8 | .zonesFill => 0x13#8
  | .zonesRead => 0x14#8 | .zonesAbove => 0x15#8 | .slotClear => 0x16#8 | .slotTagSet => 0x17#8
  | .curveSelect => 0x18#8 | .curvePut => 0x19#8 | .curveGet => 0x1A#8 | .curveClear => 0x1B#8
  | .measure => 0x20#8
  | .configSet => 0x30#8 | .engage => 0x31#8 | .disengage => 0x32#8 | .jobChange => 0x33#8
  | .hold => 0x34#8 | .release => 0x35#8 | .trimSet => 0x36#8 | .trimNudge => 0x37#8
  | .clearKeyFault => 0x38#8 | .accessSet => 0x39#8 | .restart => 0x3A#8

/-- The master function a code names, none for a code that names none (R152 step 2, R173). -/
def MasterFn.ofCode (c : Byte) : Option MasterFn :=
  match c.toNat with
  | 0x01 => some .identify | 0x02 => some .sheetGet | 0x03 => some .towerStatus | 0x04 => some .keyStatus
  | 0x05 => some .configGet | 0x06 => some .faultsTake
  | 0x10 => some .windowSet | 0x11 => some .writeModeSet | 0x12 => some .zonesWrite | 0x13 => some .zonesFill
  | 0x14 => some .zonesRead | 0x15 => some .zonesAbove | 0x16 => some .slotClear | 0x17 => some .slotTagSet
  | 0x18 => some .curveSelect | 0x19 => some .curvePut | 0x1A => some .curveGet | 0x1B => some .curveClear
  | 0x20 => some .measure
  | 0x30 => some .configSet | 0x31 => some .engage | 0x32 => some .disengage | 0x33 => some .jobChange
  | 0x34 => some .hold | 0x35 => some .release | 0x36 => some .trimSet | 0x37 => some .trimNudge
  | 0x38 => some .clearKeyFault | 0x39 => some .accessSet | 0x3A => some .restart
  | _ => none

/-- The command that a good request frame for a function is. -/
def MasterFn.command (p : MasterPort) (args : List Byte) : MasterFn → Instr
  | .identify => .identify p args | .sheetGet => .sheetGet p args | .towerStatus => .towerStatus p args
  | .keyStatus => .keyStatus p args | .configGet => .configGet p args | .faultsTake => .faultsTake p args
  | .windowSet => .windowSet p args | .writeModeSet => .writeModeSet p args | .zonesWrite => .zonesWrite p args
  | .zonesFill => .zonesFill p args | .zonesRead => .zonesRead p args | .zonesAbove => .zonesAbove p args
  | .slotClear => .slotClear p args | .slotTagSet => .slotTagSet p args
  | .curveSelect => .curveSelect p args | .curvePut => .curvePut p args | .curveGet => .curveGet p args
  | .curveClear => .curveClear p args | .measure => .measure p args
  | .configSet => .configSet p args | .engage => .engage p args | .disengage => .disengage p args
  | .jobChange => .jobChange p args | .hold => .hold p args | .release => .release p args
  | .trimSet => .trimSet p args | .trimNudge => .trimNudge p args | .clearKeyFault => .clearKeyFault p args
  | .accessSet => .accessSet p args | .restart => .restart p args

/-- The port, function and body bytes of a command that is a request for a master function. -/
def Instr.request? : Instr → Option (MasterPort × MasterFn × List Byte)
  | .identify p a => some (p, .identify, a)
  | .sheetGet p a => some (p, .sheetGet, a)
  | .towerStatus p a => some (p, .towerStatus, a)
  | .keyStatus p a => some (p, .keyStatus, a)
  | .configGet p a => some (p, .configGet, a)
  | .faultsTake p a => some (p, .faultsTake, a)
  | .windowSet p a => some (p, .windowSet, a)
  | .writeModeSet p a => some (p, .writeModeSet, a)
  | .zonesWrite p a => some (p, .zonesWrite, a)
  | .zonesFill p a => some (p, .zonesFill, a)
  | .zonesRead p a => some (p, .zonesRead, a)
  | .zonesAbove p a => some (p, .zonesAbove, a)
  | .slotClear p a => some (p, .slotClear, a)
  | .slotTagSet p a => some (p, .slotTagSet, a)
  | .curveSelect p a => some (p, .curveSelect, a)
  | .curvePut p a => some (p, .curvePut, a)
  | .curveGet p a => some (p, .curveGet, a)
  | .curveClear p a => some (p, .curveClear, a)
  | .measure p a => some (p, .measure, a)
  | .configSet p a => some (p, .configSet, a)
  | .engage p a => some (p, .engage, a)
  | .disengage p a => some (p, .disengage, a)
  | .jobChange p a => some (p, .jobChange, a)
  | .hold p a => some (p, .hold, a)
  | .release p a => some (p, .release, a)
  | .trimSet p a => some (p, .trimSet, a)
  | .trimNudge p a => some (p, .trimNudge, a)
  | .clearKeyFault p a => some (p, .clearKeyFault, a)
  | .accessSet p a => some (p, .accessSet, a)
  | .restart p a => some (p, .restart, a)
  | .powerOn => none
  | .sheetPulse => none
  | .restartTakesEffect => none
  | .unknownFunction _ _ _ => none
  | .masterBadFrame _ _ => none
  | .masterFrameAbandon _ => none
  | .done _ _ _ => none
  | .fault _ _ _ _ => none
  | .pos _ _ _ => none
  | .drivePortBadFrame _ => none
  | .driveFrameAbandon _ => none
  | .moveTimerExpiry _ _ => none
  | .askTimerExpiry _ _ => none
  | .masterLinkCharacter _ _ => none
  | .drivePortCharacter _ _ => none
  | .replySent _ => none
  | .drivePortMessageSent _ => none

/-- The command a good master frame is: the function its first body byte names, or UNKNOWN_FUNCTION (R152). -/
def decodeRequest (p : MasterPort) (code : Byte) (args : List Byte) : Instr :=
  match MasterFn.ofCode code with
  | some fn => fn.command p args
  | none => .unknownFunction p code args

/-- The kind byte of a FAULT report (R173); any other byte makes the frame bad (R143 check 4). -/
def ReportKind.ofCode (b : Byte) : Option ReportKind :=
  match b.toNat with
  | 0x00 => some .stall
  | 0x01 => some .overrange
  | 0x02 => some .driver
  | _ => none

/-- The report a drive-port frame's body is: checks 2, 3 and 4 of R143 over the layouts of R178; none for a bad frame. -/
def decodeReport : List Byte → Option Report
  | [code, key, b, c] =>
    if code = 0x60#8 then some (.done key (b ++ c))
    else if code = 0x62#8 then some (.pos key (b ++ c))
    else none
  | [code, key, kind, b, c] =>
    if code = 0x61#8 then (ReportKind.ofCode kind).map fun k => .fault key k (b ++ c) else none
  | _ => none

/-- The command a good drive-port frame with this report is. -/
def Report.command (t : TowerIx) : Report → Instr
  | .done key position => .done t key position
  | .fault key kind position => .fault t key kind position
  | .pos key position => .pos t key position

/-- The command a word of the opcode table spells. No row of the table gives bits, so no word spells one. -/
def decodeTableWord (_nbits _w : Nat) : Option Instr := none

end Sys2Proof
end

