-- ==== Sys2Proof/Machine/State.lean ====
section
/-! DEFINITION. The state of the KM12, whole and as plain data, and the state at power-on.

Every record of the spec is a structure with the spec's own fields. Where the spec says of a field that it is present
exactly in some states (R123, R55), the data says it too: an absent position cannot be held beside IDLE, and a target's
opening, steps and mark come and go together. -/

namespace Sys2Proof.Machine

/-- The two plate slots of a tower (R18). -/
inductive SlotName where
  | run
  | next
  deriving DecidableEq, Repr

/-- The state of a slot, derived from its coverage list (R19). -/
inductive SlotState where
  | empty
  | loading
  | complete
  deriving DecidableEq, Repr

/-- The direction of a write context (R23). -/
inductive Direction where
  | up
  | down
  deriving DecidableEq, Repr

/-- The combine mode of a write context (R28). -/
inductive Mode where
  | replace
  | add
  | subtract
  | max
  deriving DecidableEq, Repr

/-- The states of a tower (R105). -/
inductive TowerState where
  | dark
  | presetting
  | printing
  | held
  deriving DecidableEq, Repr

/-- The drive states of a key (R123). -/
inductive DriveState where
  | unknown
  | idle
  | queued
  | moving
  | faulted
  deriving DecidableEq, Repr

/-- The fault kinds of a FAULTED key (R123). -/
inductive KeyFault where
  | stall
  | overrange
  | driver
  | timeout
  | short
  | noAnswer
  deriving DecidableEq, Repr

/-- The kinds of a fault record (R161). -/
inductive FaultKind where
  | stall
  | overrange
  | driver
  | timeout
  | short
  | noAnswer
  | late
  | curveIncomplete
  | linkFrame
  deriving DecidableEq, Repr

/-- The clamp mark of a target (R55, R66). -/
inductive ClampMark where
  | none
  | low
  | high
  deriving DecidableEq, Repr

/-- The phase of a curve cursor, with the held coverage word in HALF (R42). -/
inductive CursorPhase where
  | even
  | half (held : Nat)
  deriving DecidableEq, Repr

/-- The last operation of a curve cursor (R44). -/
inductive LastOp where
  | none
  | read
  | write
  deriving DecidableEq, Repr

/-- The phases of a receive framer (R146, R143). -/
inductive FramerPhase where
  | hunt
  | length
  | body
  | check
  deriving DecidableEq, Repr

/-- The result codes of a reply (R173). -/
inductive Result where
  | ok
  | okClamped
  | frame
  | unknown
  | rank
  | length
  | denied
  | range
  | state
  | busy
  | notReady
  | incomplete
  | order
  deriving DecidableEq, Repr

/-- The geometry fields of a configuration record (R6, R7). -/
structure Geometry where
  z : Nat
  f : Nat
  reversed : Bool
  deriving DecidableEq, Repr

/-- The metering fields of a configuration record (R6, R9). With the geometry they are the fields R14 lists. -/
structure Metering where
  curveA : CurveIx
  curveB : CurveIx
  split : Nat
  w0 : Nat
  w1 : Nat
  w2 : Nat
  scale : Nat
  minOpen : Nat
  maxOpen : Nat
  closeEmpty : Bool
  sweepBase : Nat
  sweepGain : Nat
  deriving DecidableEq, Repr

/-- The drive fields of a configuration record (R6, R10). -/
structure DriveSettings where
  concurrency : Nat
  settleSheets : Nat
  moveTimeout : Nat
  tolerance : Nat
  deriving DecidableEq, Repr

/-- The loop fields of a configuration record (R6, R10). -/
structure LoopSettings where
  enable : Bool
  gain : Nat
  deadband : Nat
  stepLimit : Nat
  deriving DecidableEq, Repr

/-- A tower's configuration record, in the four groups of R6. -/
structure TowerConfig where
  geometry : Geometry
  metering : Metering
  drive : DriveSettings
  loop : LoopSettings
  deriving DecidableEq, Repr

/-- The configuration record of every tower at power-on (R6). -/
def TowerConfig.powerOn : TowerConfig where
  geometry := { z := 32, f := 1000, reversed := false }
  metering :=
    { curveA := 0, curveB := 0, split := 32, w0 := 4, w1 := 2, w2 := 1, scale := 100, minOpen := 0, maxOpen := 1000,
      closeEmpty := false, sweepBase := 20, sweepGain := 60 }
  drive := { concurrency := 4, settleSheets := 30, moveTimeout := 3000, tolerance := 2 }
  loop := { enable := false, gain := 250, deadband := 20, stepLimit := 10 }

/-- A plate slot (R18): the coverage of each zone, none while unwritten; the job tag; the mirrored flag. -/
structure Slot where
  coverage : List (Option Nat)
  tag : Option (BitVec 32)
  mirrored : Bool
  deriving DecidableEq, Repr

/-- An EMPTY slot of z zones, tag absent, mirrored clear (R18, R36). -/
def Slot.emptied (z : Nat) : Slot := { coverage := List.replicate z Option.none, tag := Option.none, mirrored := false }

/-- The drive part of a key record (R123), each drive state with the fields present in it.
The position is kept as reported; `target` is the value the MOVE carried and `timeout` what its timer started with; the ask
timer runs exactly while UNKNOWN. -/
inductive Drive where
  | unknown
  | idle (position : Nat)
  | queued (position : Nat)
  | moving (position : Nat) (target : Nat) (timeout : Nat)
  | faulted (kind : KeyFault) (position : Option Nat)
  deriving DecidableEq, Repr

/-- A key's target: opening, motor steps and clamp mark, present together (R55). -/
structure Target where
  opening : Nat
  steps : Nat
  mark : ClampMark
  deriving DecidableEq, Repr

/-- A key record (section 1.2, R55, R77, R92, R95, R123). -/
structure KeyRec where
  drive : Drive
  target : Option Target
  effective : Option Nat
  trim : Int
  acc : Int
  settleUntil : Sheet
  deriving DecidableEq, Repr

/-- A key at power-on, and a key created by a change of Z (R15, R55, R77, R92, R95, R123). -/
def KeyRec.fresh : KeyRec :=
  { drive := .unknown, target := Option.none, effective := Option.none, trim := 0, acc := 0, settleUntil := 0#32 }

/-- The loop counters of a tower (R104). -/
structure LoopCounters where
  applied : Nat
  settleSkipped : Nat
  deadbandSkipped : Nat
  stateSkipped : Nat
  deriving DecidableEq, Repr

/-- The four loop counters at 0 (R104). -/
def LoopCounters.zero : LoopCounters := { applied := 0, settleSkipped := 0, deadbandSkipped := 0, stateSkipped := 0 }

/-- A receive framer (R146, R143): phase, bad-character marker, whether its 5 ms timer runs, the recorded LEN and the body
bytes collected. -/
structure Framer where
  phase : FramerPhase
  marker : Bool
  timer : Bool
  len : Nat
  body : List Byte
  deriving DecidableEq, Repr

/-- A framer in HUNT with its timer stopped, as at power-on, where its marker is clear (R146, R143).
DESIGN CHOICE, unsafe in form: in HUNT, where nothing reads them, LEN is 0 and no byte is held; and the marker, which the rules
clear at power-on and at the 0xA5 that opens a frame, is clear from the return to HUNT on, after a frame's end, an abandoned
frame and RESTART_TAKES_EFFECT alike (log entry 5). -/
def Framer.hunting : Framer := { phase := .hunt, marker := false, timer := false, len := 0, body := [] }

/-- The messages the KM12 sends on a drive port (R129). -/
inductive DriveMessage where
  | move (key : Nat) (steps : Nat)
  | ask (key : Nat)
  | sweep (percent : Nat)
  deriving DecidableEq, Repr

/-- A drive port (R129, R143): its receive framer, the message it is sending, and those made behind it in order. -/
structure DrivePort where
  framer : Framer
  sending : Option DriveMessage
  waiting : List DriveMessage
  deriving DecidableEq, Repr

/-- A tower, with the drive port of its number (section 1.1, R1). -/
structure Tower where
  config : TowerConfig
  run : Slot
  next : Slot
  state : TowerState
  keys : List KeyRec
  queue : List Nat
  moving : Nat
  sweep : Option Nat
  lastSweep : Option Nat
  counters : LoopCounters
  port : DrivePort
  deriving DecidableEq, Repr

/-- A write context (R23); the pointer is none when EXHAUSTED. -/
structure WriteContext where
  tower : TowerIx
  slot : SlotName
  first : Nat
  last : Nat
  pointer : Option Nat
  direction : Direction
  mode : Mode
  mask : BitVec 48
  deriving DecidableEq, Repr

/-- The power-on and RESTART value of a write context, with the Z of tower 0 (R23). -/
def WriteContext.initial (z : Nat) : WriteContext :=
  { tower := 0, slot := .next, first := 0, last := z - 1, pointer := some 0, direction := .up, mode := .replace,
    mask := BitVec.allOnes 48 }

/-- A curve cursor (R42). -/
structure Cursor where
  curve : CurveIx
  index : Nat
  phase : CursorPhase
  lastOp : LastOp
  deriving DecidableEq, Repr

/-- The power-on and RESTART value of a curve cursor (R42). -/
def Cursor.initial : Cursor := { curve := 0, index := 0, phase := .even, lastOp := .none }

/-- A master port (R146). `reply` is the body of the reply being sent; the port is busy while there is one (R148). -/
structure MasterPortRec where
  framer : Framer
  ctx : WriteContext
  cursor : Cursor
  reply : Option (List Byte)
  deriving DecidableEq, Repr

/-- A master port at power-on (R146, R23, R42). -/
def MasterPortRec.powerOn : MasterPortRec :=
  { framer := Framer.hunting, ctx := WriteContext.initial 32, cursor := Cursor.initial, reply := Option.none }

/-- The three master ports (R146). -/
structure MasterPorts where
  console : MasterPortRec
  plate : MasterPortRec
  scanner : MasterPortRec
  deriving DecidableEq, Repr

/-- A point of a curve (R40). -/
structure Point where
  coverage : Nat
  opening : Nat
  deriving DecidableEq, Repr

/-- The origin of a fault record (R161, R164). -/
inductive Origin where
  | key (tower : TowerIx) (key : Nat)
  | tower (tower : TowerIx)
  | port (port : MasterPort)
  deriving DecidableEq, Repr

/-- A fault record (R161). -/
structure FaultRecord where
  kind : FaultKind
  origin : Origin
  first : Sheet
  last : Sheet
  count : Nat
  deriving DecidableEq, Repr

/-- The Fault List, oldest record first, and its FULL mark (R161, R163). -/
structure FaultList where
  records : List FaultRecord
  full : Bool
  deriving DecidableEq, Repr

/-- The trust level and the deny map of each port (R157). Bit t of a map is tower t, bit 12 is CURVES (R174). -/
structure AccessSettings where
  trust : Nat
  console : BitVec 13
  plate : BitVec 13
  scanner : BitVec 13
  deriving DecidableEq, Repr

/-- The whole machine. `pending` is the queue of waiting commands, oldest first: the model's own field (log entry 1).
`restartPending` says that a RESTART has been accepted and its reply not yet wholly sent (R144, R145). -/
structure State where
  pending : List Instr
  sheets : Sheet
  towers : Vector Tower 12
  curves : Vector (List Point) 16
  masters : MasterPorts
  access : AccessSettings
  faults : FaultList
  restartPending : Bool
  deriving DecidableEq, Repr

/-- Why the machine stops with a fault: never. No command of the KM12 stops it (R149, R151, R159); safe. -/
inductive Fault where
  deriving DecidableEq, Repr

/-- Why a command has no meaning. -/
inductive Refusal where
  /-- Raised by a refused arm of `exec` alone, for a command without a meaning yet; safe. No arm is refused. -/
  | notModelled (mnemonic : String)
  deriving DecidableEq, Repr

/-- A tower at power-on: configuration of R6, both slots EMPTY (R18), DARK (R105), every key in the survey with its ASK
made (R138), nothing queued or moving (R124, R125), sweeps absent (R55, R142), counters 0 (R104). -/
def Tower.powerOn : Tower where
  config := TowerConfig.powerOn
  run := Slot.emptied 32
  next := Slot.emptied 32
  state := .dark
  keys := List.replicate 32 KeyRec.fresh
  queue := []
  moving := 0
  sweep := Option.none
  lastSweep := Option.none
  counters := LoopCounters.zero
  port := { framer := Framer.hunting, sending := some (.ask 0), waiting := (List.range 31).map fun k => .ask (k + 1) }

/-- The machine right after power-on (section 4 of the Introduction; R6, R18, R23, R40, R42, R89, R146, R157, R161). -/
def State.reset : State where
  pending := []
  sheets := 0#32
  towers := Vector.replicate 12 Tower.powerOn
  curves := Vector.replicate 16 []
  masters := { console := MasterPortRec.powerOn, plate := MasterPortRec.powerOn, scanner := MasterPortRec.powerOn }
  access := { trust := 0, console := 0#13, plate := 0#13, scanner := 0#13 }
  faults := { records := [], full := false }
  restartPending := false

end Sys2Proof.Machine
end

