-- ==== Sys2Proof/Machine/Operands.lean ====
section
/-! DEFINITION. Operand forms: how the fields of requests and replies are encoded (R172, R173, R174), the configuration
record (R176), and the geometry of keys and zones (R3, R4). -/

namespace Sys2Proof.Machine

/-! ### Numbers (R172: most significant byte first, signed fields two's complement) -/

/-- A 16-bit field. -/
def be16 (a b : Byte) : Nat := (a ++ b : BitVec 16).toNat

/-- A signed 16-bit field. -/
def signed16 (a b : Byte) : Int := (a ++ b : BitVec 16).toInt

/-- A 32-bit field. -/
def be32 (a b c d : Byte) : BitVec 32 := a ++ b ++ c ++ d

/-- A set of 48 members, six bytes: member m is the bit of weight 2^m of the whole (R174). -/
def be48 (a b c d e f : Byte) : BitVec 48 := a ++ b ++ c ++ d ++ e ++ f

/-- A one-byte number as sent. -/
def byteOf (n : Nat) : Byte := BitVec.ofNat 8 n

/-- A 16-bit number as sent. -/
def bytes16 (n : Nat) : List Byte := [BitVec.ofNat 8 (n / 256), BitVec.ofNat 8 n]

/-- A signed 16-bit number as sent. -/
def bytesSigned16 (i : Int) : List Byte := bytes16 (BitVec.ofInt 16 i).toNat

/-- A 32-bit number as sent. -/
def bytes32 (w : BitVec 32) : List Byte :=
  [w.extractLsb' 24 8, w.extractLsb' 16 8, w.extractLsb' 8 8, w.extractLsb' 0 8]

/-- A set of 48 members as sent (R174). -/
def bytes48 (w : BitVec 48) : List Byte :=
  [w.extractLsb' 40 8, w.extractLsb' 32 8, w.extractLsb' 24 8, w.extractLsb' 16 8, w.extractLsb' 8 8, w.extractLsb' 0 8]

/-- The count of a TRIM NUDGE entry: the low six bits, sign-extended (R83). -/
def nudgeCount (b : Byte) : Int := (b.extractLsb' 0 6).toInt

/-! ### Flags and absence (R172) -/

/-- A flag field in a request; none for a value other than its two encodings. -/
def readFlag (b : Byte) : Option Bool :=
  if b = 0x00#8 then some false else if b = 0x01#8 then some true else none

/-- A flag as sent. -/
def flagByte (b : Bool) : Byte := if b then 0x01#8 else 0x00#8

/-- A 16-bit field that may be absent as sent: 0xFFFF when absent. -/
def bytesOption16 : Option Nat → List Byte
  | none => [0xFF#8, 0xFF#8]
  | some n => bytes16 n

/-- A one-byte field that may be absent as sent: 0xFF when absent. -/
def byteOption : Option Nat → Byte
  | none => 0xFF#8
  | some n => byteOf n

/-- A key position as sent: a presence byte, then the position or zero bits. -/
def bytesPosition : Option Nat → List Byte
  | none => [0x00#8, 0x00#8, 0x00#8]
  | some n => 0x01#8 :: bytes16 n

/-- A job tag as sent: a presence byte, then the tag or zero bits. -/
def bytesTag : Option (BitVec 32) → List Byte
  | none => [0x00#8, 0x00#8, 0x00#8, 0x00#8, 0x00#8]
  | some w => 0x01#8 :: bytes32 w

/-! ### Indices and enumerations (R173); none where R155 refuses with RANGE -/

/-- A tower field (R1). -/
def readTower (b : Byte) : Option TowerIx := if h : b.toNat < 12 then some ⟨b.toNat, h⟩ else none

/-- A curve field (R46, R53). -/
def readCurve (b : Byte) : Option CurveIx := if h : b.toNat < 16 then some ⟨b.toNat, h⟩ else none

def readSlot (b : Byte) : Option SlotName :=
  if b = 0x00#8 then some .run else if b = 0x01#8 then some .next else none

def SlotName.code : SlotName → Byte
  | .run => 0x00#8
  | .next => 0x01#8

def SlotState.code : SlotState → Byte
  | .empty => 0x00#8
  | .loading => 0x01#8
  | .complete => 0x02#8

def readDirection (b : Byte) : Option Direction :=
  if b = 0x00#8 then some .up else if b = 0x01#8 then some .down else none

def Direction.code : Direction → Byte
  | .up => 0x00#8
  | .down => 0x01#8

def readMode (b : Byte) : Option Mode :=
  if b = 0x00#8 then some .replace
  else if b = 0x01#8 then some .add
  else if b = 0x02#8 then some .subtract
  else if b = 0x03#8 then some .max
  else none

def Mode.code : Mode → Byte
  | .replace => 0x00#8
  | .add => 0x01#8
  | .subtract => 0x02#8
  | .max => 0x03#8

def TowerState.code : TowerState → Byte
  | .dark => 0x00#8
  | .presetting => 0x01#8
  | .printing => 0x02#8
  | .held => 0x03#8

def DriveState.code : DriveState → Byte
  | .unknown => 0x00#8
  | .idle => 0x01#8
  | .queued => 0x02#8
  | .moving => 0x03#8
  | .faulted => 0x04#8

/-- The kinds of a FAULTED key are kinds of the Fault List (R123, R161). -/
def KeyFault.kind : KeyFault → FaultKind
  | .stall => .stall
  | .overrange => .overrange
  | .driver => .driver
  | .timeout => .timeout
  | .short => .short
  | .noAnswer => .noAnswer

/-- The kinds a module reports are kinds of a FAULTED key (R130). -/
def reportedKind : ReportKind → KeyFault
  | .stall => .stall
  | .overrange => .overrange
  | .driver => .driver

def FaultKind.code : FaultKind → Nat
  | .stall => 0
  | .overrange => 1
  | .driver => 2
  | .timeout => 3
  | .short => 4
  | .noAnswer => 5
  | .late => 6
  | .curveIncomplete => 7
  | .linkFrame => 8

def ClampMark.code : ClampMark → Byte
  | .none => 0x00#8
  | .low => 0x01#8
  | .high => 0x02#8

/-- The phase byte of a curve cursor block (R173, R175). -/
def CursorPhase.code : CursorPhase → Byte
  | .even => 0x00#8
  | .half _ => 0x01#8

def LastOp.code : LastOp → Byte
  | .none => 0x00#8
  | .read => 0x01#8
  | .write => 0x02#8

def Result.code : Result → Byte
  | .ok => 0x00#8
  | .okClamped => 0x01#8
  | .frame => 0x02#8
  | .unknown => 0x03#8
  | .rank => 0x04#8
  | .length => 0x05#8
  | .denied => 0x06#8
  | .range => 0x07#8
  | .state => 0x08#8
  | .busy => 0x09#8
  | .notReady => 0x0A#8
  | .incomplete => 0x0B#8
  | .order => 0x0C#8

/-- A function byte of a reply: the request's code plus 0x80, modulo 256 (R148, R175). -/
def replyByte (code : Byte) : Byte := code + 0x80#8

/-! ### Lists of a body (R153, R176) -/

/-- The 16-bit words of a list. -/
def readWords : List Byte → List Nat
  | a :: b :: rest => be16 a b :: readWords rest
  | _ => []

/-- The entries of TRIM SET and MEASURE: key and signed 16-bit number. -/
def readKeyValues : List Byte → List (Nat × Int)
  | k :: a :: b :: rest => (k.toNat, signed16 a b) :: readKeyValues rest
  | _ => []

/-- The entries of TRIM NUDGE: key and count (R83). -/
def readKeyCounts : List Byte → List (Nat × Int)
  | k :: c :: rest => (k.toNat, nudgeCount c) :: readKeyCounts rest
  | _ => []

/-- A deny map of an ACCESS SET: none when one of the three high bits, which name no member, is set (R174). -/
def readDenyMap (a b : Byte) : Option (BitVec 13) :=
  if be16 a b < 2 ^ 13 then some (BitVec.ofNat 13 (be16 a b)) else none

/-! ### The configuration record (R176)

DEDUCED, unsafe: the table of R176 has two columns of fields; the 29 bytes run down the left column and then down the right
one (log entry 6). -/

/-- A configuration record in the 29 bytes of CONFIG SET, before any range check but that of its curves and flags; the
scale is unclamped. None for a curve above 15 or a flag outside its encodings (R12), or another number of bytes. -/
def readConfig : List Byte → Option TowerConfig
  | [z, f1, f0, reversed, curveA, curveB, split, w0, w1, w2, scale, min1, min0, max1, max0,
     closeEmpty, c, settle, t1, t0, tolerance, enable, g1, g0, d1, d0, stepLimit, sweepBase, sweepGain] => do
    let reversed ← readFlag reversed
    let curveA ← readCurve curveA
    let curveB ← readCurve curveB
    let closeEmpty ← readFlag closeEmpty
    let enable ← readFlag enable
    return {
      geometry := { z := z.toNat, f := be16 f1 f0, reversed }
      metering := {
        curveA, curveB, split := split.toNat, w0 := w0.toNat, w1 := w1.toNat, w2 := w2.toNat, scale := scale.toNat,
        minOpen := be16 min1 min0, maxOpen := be16 max1 max0, closeEmpty, sweepBase := sweepBase.toNat,
        sweepGain := sweepGain.toNat }
      drive := {
        concurrency := c.toNat, settleSheets := settle.toNat, moveTimeout := be16 t1 t0, tolerance := tolerance.toNat }
      loop := { enable, gain := be16 g1 g0, deadband := be16 d1 d0, stepLimit := stepLimit.toNat } }
  | _ => none

/-- A configuration record as CONFIG GET returns it, in the layout CONFIG SET accepts (R17, R176). -/
def configBytes (c : TowerConfig) : List Byte :=
  [byteOf c.geometry.z] ++ bytes16 c.geometry.f ++
  [flagByte c.geometry.reversed, byteOf c.metering.curveA.val, byteOf c.metering.curveB.val, byteOf c.metering.split,
   byteOf c.metering.w0, byteOf c.metering.w1, byteOf c.metering.w2, byteOf c.metering.scale] ++
  bytes16 c.metering.minOpen ++ bytes16 c.metering.maxOpen ++
  [flagByte c.metering.closeEmpty, byteOf c.drive.concurrency, byteOf c.drive.settleSheets] ++
  bytes16 c.drive.moveTimeout ++
  [byteOf c.drive.tolerance, flagByte c.loop.enable] ++
  bytes16 c.loop.gain ++ bytes16 c.loop.deadband ++
  [byteOf c.loop.stepLimit, byteOf c.metering.sweepBase, byteOf c.metering.sweepGain]

/-- Every field but scale lies in its range of R6, the split against the record's own Z (R12). -/
def TowerConfig.inRange (c : TowerConfig) : Bool :=
  decide (16 ≤ c.geometry.z ∧ c.geometry.z ≤ 48) && decide (200 ≤ c.geometry.f ∧ c.geometry.f ≤ 4000) &&
  decide (c.metering.split ≤ c.geometry.z) && decide (1 ≤ c.metering.w0 ∧ c.metering.w0 ≤ 16) &&
  decide (c.metering.w1 ≤ 8) && decide (c.metering.w2 ≤ 4) && decide (c.metering.minOpen ≤ 500) &&
  decide (500 ≤ c.metering.maxOpen ∧ c.metering.maxOpen ≤ 1000) && decide (c.metering.sweepBase ≤ 100) &&
  decide (c.metering.sweepGain ≤ 200) && decide (1 ≤ c.drive.concurrency ∧ c.drive.concurrency ≤ 8) &&
  decide (c.drive.settleSheets ≤ 255) && decide (200 ≤ c.drive.moveTimeout ∧ c.drive.moveTimeout ≤ 10000) &&
  decide (c.drive.tolerance ≤ 20) && decide (c.loop.gain ≤ 1000) && decide (c.loop.deadband ≤ 500) &&
  decide (1 ≤ c.loop.stepLimit ∧ c.loop.stepLimit ≤ 50)

/-- The scale of a record clamped into 50..150, the one field R12 clamps. -/
def TowerConfig.clampScale (c : TowerConfig) : TowerConfig :=
  { c with metering := { c.metering with scale := max 50 (min 150 c.metering.scale) } }

/-! ### Keys and zones (R3, R4, R8) -/

/-- A tower's key count Z, which is its slots' zone count. -/
def Tower.z (tw : Tower) : Nat := tw.config.geometry.z

/-- The zone under key k, and the key over zone k: the mapping of R4 is its own inverse. -/
def Tower.zoneOf (tw : Tower) (k : Nat) : Nat :=
  if tw.run.mirrored != tw.config.geometry.reversed then tw.z - 1 - k else k

/-- Two keys lie on the same side of the split (R8, R59). -/
def sameRegion (split j k : Nat) : Bool := decide (j < split) == decide (k < split)

/-- The curve of key k: curve A below the split, curve B at and above it (R8, R60). -/
def Tower.curveOf (tw : Tower) (k : Nat) : CurveIx :=
  if k < tw.config.metering.split then tw.config.metering.curveA else tw.config.metering.curveB

/-- The slot of a name. -/
def Tower.slot (tw : Tower) : SlotName → Slot
  | .run => tw.run
  | .next => tw.next

/-- A zone's coverage in a slot, none while it is unwritten. -/
def Slot.zone (sl : Slot) (z : Nat) : Option Nat := (sl.coverage[z]?).join

/-! ### The fields of a key's drive part (R123) -/

def Drive.state : Drive → DriveState
  | .unknown => .unknown
  | .idle _ => .idle
  | .queued _ => .queued
  | .moving _ _ _ => .moving
  | .faulted _ _ => .faulted

/-- The position, while it is known. -/
def Drive.position : Drive → Option Nat
  | .unknown => none
  | .idle p => some p
  | .queued p => some p
  | .moving p _ _ => some p
  | .faulted _ p => p

/-- The fault kind, while FAULTED. -/
def Drive.faultKind : Drive → Option KeyFault
  | .faulted k _ => some k
  | _ => none

/-- The move target, while MOVING. -/
def Drive.moveTarget : Drive → Option Nat
  | .moving _ t _ => some t
  | _ => none

/-- What the move timer runs for, while it runs. -/
def Drive.moveTimer : Drive → Option Nat
  | .moving _ _ d => some d
  | _ => none

/-- What the ask timer runs for, while it runs. -/
def Drive.askTimer : Drive → Option Nat
  | .unknown => some Config.askTimerMs
  | _ => none

/-- A key's target steps, while it has a target. -/
def KeyRec.steps (key : KeyRec) : Option Nat := key.target.map Target.steps

end Sys2Proof.Machine
end

