-- ==== Sys2Proof/Machine/Flags.lean ====
section
/-! DEFINITION. Derived conditions and the shared arithmetic: rounding and clamping (sections 7.1, 7.2 of the Introduction),
sheet comparison (section 7.3, R91), slot and curve conditions (R19, R41), parity and sum of a frame (R147). -/

namespace Sys2Proof.Machine

/-! ### Rounding and clamping -/

/-- a/b rounded half up, for b > 0. -/
def roundHalfUp (a b : Nat) : Nat := (2 * a + b) / (2 * b)

/-- a/b rounded half away from zero, for b > 0: the magnitude rounded half up, the sign restored. -/
def roundAway (a : Int) (b : Nat) : Int :=
  if 0 ≤ a then (roundHalfUp a.natAbs b : Int) else -(roundHalfUp a.natAbs b : Int)

/-- A number clamped into [lo, hi]. -/
def clamp (lo hi v : Int) : Int := if v < lo then lo else if hi < v then hi else v

/-- A coverage data value clamped into 0..1000 (R30). -/
def clampCoverage (v : Nat) : Nat := if 1000 < v then 1000 else v

/-- The difference of two step counts, taken without sign (R131). -/
def stepDistance (a b : Nat) : Nat := if a ≤ b then b - a else a - b

/-! ### Sheet numbers -/

/-- Sheet a is not before sheet b. -/
def sheetNotBefore (a b : Sheet) : Bool := decide ((a - b).toNat < 2 ^ 31)

/-- Sheet a is before sheet b. -/
def sheetBefore (a b : Sheet) : Bool := !sheetNotBefore a b

/-- Sheet a is after sheet b: b is before a. -/
def sheetAfter (a b : Sheet) : Bool := sheetBefore b a

/-- A sheet number plus a count of sheets, modulo 2^32. -/
def sheetPlus (a : Sheet) (n : Nat) : Sheet := a + BitVec.ofNat 32 n

/-- The age of a stamp behind a reference, at most 65535 (R177). -/
def sheetAge (reference a : Sheet) : Nat := min 65535 (reference - a).toNat

/-! ### Slots and curves -/

/-- The slot state (R19). -/
def Slot.state (sl : Slot) : SlotState :=
  if sl.coverage.all Option.isNone then .empty
  else if sl.coverage.all Option.isSome then .complete
  else .loading

/-- Every zone of the slot is written. -/
def Slot.complete (sl : Slot) : Bool := sl.state == .complete

/-- A curve with two or more points is USABLE (R41). -/
def usable (points : List Point) : Bool := decide (2 ≤ points.length)

/-- The CURVE_INCOMPLETE mark of TOWER STATUS (R41, R170). -/
def Tower.curveIncompleteMark (curves : Vector (List Point) 16) (tw : Tower) : Bool :=
  !usable (curves.get tw.config.metering.curveA) || !usable (curves.get tw.config.metering.curveB)

/-! ### Keys of a tower -/

/-- The number of keys in a drive state (R125, R170). -/
def Tower.countIn (tw : Tower) (d : DriveState) : Nat := tw.keys.countP fun key => key.drive.state == d

/-- Key k is IDLE, has a target, and its target steps differ from its position (R108 step 5, R113 step 8, R126). -/
def Tower.isAway (tw : Tower) (k : Nat) : Bool :=
  match tw.keys[k]? with
  | some key =>
    match key.drive, key.target with
    | .idle position, some target => target.steps != position
    | _, _ => false
  | none => false

/-! ### Characters and frames -/

/-- A character has good parity when its data bits and parity bit together hold an odd number of ones (R147). -/
def goodParity (ch : Character) : Bool :=
  ((List.range 8).countP (fun i => ch.data.getLsbD i) + ch.parity.toNat) % 2 == 1

/-- The sum of a frame: LEN, every body byte and CHECK, eight bits (R147). -/
def frameSum (len : Nat) (body : List Byte) (check : Byte) : Byte :=
  body.foldl (· + ·) (BitVec.ofNat 8 len) + check

end Sys2Proof.Machine
end

