-- ==== Sys2Proof/Machine/Ops.lean ====
section
/-! DEFINITION. The named operations over the state that every family shares: access to towers, curves and ports; updates of
a key record; making a drive-port message and a reply; logging a fault (R162); the survey (R138). -/

namespace Sys2Proof.Machine

/-! ### Towers and curves -/

/-- Tower t. -/
def State.tower (s : State) (t : TowerIx) : Tower := s.towers.get t

/-- The state with tower t replaced. -/
def State.setTower (s : State) (t : TowerIx) (tw : Tower) : State := { s with towers := s.towers.set t.val tw t.isLt }

/-- The state with each tower replaced by what a function makes of it. -/
def State.mapTowers (s : State) (f : Tower → Tower) : State := { s with towers := Vector.ofFn fun t => f (s.tower t) }

/-- The points of curve c. -/
def State.curve (s : State) (c : CurveIx) : List Point := s.curves.get c

/-- The state with curve c replaced. -/
def State.setCurve (s : State) (c : CurveIx) (points : List Point) : State :=
  { s with curves := s.curves.set c.val points c.isLt }

/-! ### Master ports -/

/-- The record of a master port. -/
def State.port (s : State) : MasterPort → MasterPortRec
  | .console => s.masters.console
  | .plate => s.masters.plate
  | .scanner => s.masters.scanner

/-- The state with the record of a master port replaced. -/
def State.setPort (s : State) (p : MasterPort) (r : MasterPortRec) : State :=
  match p with
  | .console => { s with masters := { s.masters with console := r } }
  | .plate => { s with masters := { s.masters with plate := r } }
  | .scanner => { s with masters := { s.masters with scanner := r } }

/-- A master port is busy from the end of a frame until its reply has been sent (R148). -/
def State.busy (s : State) (p : MasterPort) : Bool := (s.port p).reply.isSome

/-- The state with a port's receive framer replaced. -/
def State.setFramer (s : State) (p : MasterPort) (f : Framer) : State := s.setPort p { s.port p with framer := f }

/-- The state with a port's write context replaced. -/
def State.setCtx (s : State) (p : MasterPort) (c : WriteContext) : State := s.setPort p { s.port p with ctx := c }

/-- The state with a port's curve cursor replaced. -/
def State.setCursor (s : State) (p : MasterPort) (c : Cursor) : State := s.setPort p { s.port p with cursor := c }

/-- The state with a port sending a reply of this body; its framer is in HUNT (R148, R149). -/
def State.sendReply (s : State) (p : MasterPort) (body : List Byte) : State :=
  s.setPort p { s.port p with framer := Framer.hunting, reply := some body }

/-- The deny map of a port (R157). -/
def AccessSettings.denyMap (a : AccessSettings) : MasterPort → BitVec 13
  | .console => a.console
  | .plate => a.plate
  | .scanner => a.scanner

/-! ### The fault list -/

/-- A record has this kind and this origin (R162 step 1). -/
def FaultRecord.matches (kind : FaultKind) (origin : Origin) (r : FaultRecord) : Bool :=
  r.kind == kind && r.origin == origin

/-- A record after a fault has merged into it at a sheet (R162 step 1). -/
def FaultRecord.merged (sheet : Sheet) (r : FaultRecord) : FaultRecord :=
  { r with last := sheet, count := if r.count < 255 then r.count + 1 else r.count }

/-- The Fault List after a fault: merged, made a new record at the tail, or dropped with FULL set (R162). -/
def FaultList.log (l : FaultList) (kind : FaultKind) (origin : Origin) (sheet : Sheet) : FaultList :=
  if l.records.any (FaultRecord.matches kind origin) then
    { l with records := l.records.map fun r => if r.matches kind origin then r.merged sheet else r }
  else if l.records.length < Config.maxFaultRecords then
    { l with records := l.records ++ [{ kind, origin, first := sheet, last := sheet, count := 1 }] }
  else { l with full := true }

/-- A fault is logged with the sheet count as it stands (R162, R90). -/
def State.logFault (s : State) (kind : FaultKind) (origin : Origin) : State :=
  { s with faults := s.faults.log kind origin s.sheets }

/-! ### Drive ports -/

/-- A drive port once a message is made for it: sent now, or behind those being sent (R129). -/
def DrivePort.send (d : DrivePort) (m : DriveMessage) : DrivePort :=
  match d.sending with
  | none => { d with sending := some m }
  | some _ => { d with waiting := d.waiting ++ [m] }

/-- A drive port once the last character of its message has left: the next message begins (R129). -/
def DrivePort.sent (d : DrivePort) : DrivePort :=
  match d.waiting with
  | [] => { d with sending := none }
  | m :: rest => { d with sending := some m, waiting := rest }

/-- A message is made on the tower's own drive port (R1, R129). -/
def Tower.send (tw : Tower) (m : DriveMessage) : Tower := { tw with port := tw.port.send m }

/-- The tower with its drive port's receive framer replaced. -/
def Tower.setFramer (tw : Tower) (f : Framer) : Tower := { tw with port := { tw.port with framer := f } }

/-! ### Key records -/

/-- The tower with key k's record changed by a function; nothing where the tower has no key k (R2). -/
def Tower.updateKey (tw : Tower) (k : Nat) (f : KeyRec → KeyRec) : Tower := { tw with keys := tw.keys.modify k f }

/-- The tower with key k's drive part replaced. -/
def Tower.setDrive (tw : Tower) (k : Nat) (d : Drive) : Tower := tw.updateKey k fun key => { key with drive := d }

/-- The tower with every key's settle_until set to one value (R94). -/
def Tower.settleAll (tw : Tower) (sheet : Sheet) : Tower :=
  { tw with keys := tw.keys.map fun key => { key with settleUntil := sheet } }

/-- A key enters the survey (R138): UNKNOWN, position and fault kind absent, ASK sent, ask timer started. -/
def Tower.survey (tw : Tower) (k : Nat) : Tower := (tw.setDrive k .unknown).send (.ask k)

/-- Keys enter the survey together, in the order given (R138: ascending). -/
def Tower.surveyAll (tw : Tower) (ks : List Nat) : Tower := ks.foldl Tower.survey tw

end Sys2Proof.Machine
end

