-- ==== Sys2Proof/Machine/KeyDrive.lean ====
section
/-! DEFINITION. The Key Drive Unit's decisions inside one tower: the move queue and dispatch (R124 to R128), target changes
(R126), the sweep check (R120, R142) and the drain check (R118). None of them reads or writes anything outside the tower. -/

namespace Sys2Proof.Machine

/-! ### Sweep (R120, R142) -/

/-- The sweep check: SWEEP is sent when the computed sweep is present and differs from the last sweep sent (R120). -/
def Tower.sweepCheck (tw : Tower) : Tower :=
  match tw.sweep with
  | some v => if tw.lastSweep = some v then tw else { tw.send (.sweep v) with lastSweep := some v }
  | none => tw

/-- The tower is PRESETTING or PRINTING: it dispatches and sends SWEEP (R105). -/
def Tower.running (tw : Tower) : Bool := tw.state == .presetting || tw.state == .printing

/-- A sweep change handed on by the Preset Engine (R142). -/
def Tower.sweepChange (tw : Tower) : Tower := if tw.running then tw.sweepCheck else tw

/-! ### The end of presetting (R118) -/

/-- The drain check: a PRESETTING tower with an empty queue and no move in flight enters PRINTING (R118). -/
def Tower.drainCheck (tw : Tower) : Tower :=
  if tw.state = .presetting ∧ tw.queue = [] ∧ tw.moving = 0 then { tw with state := .printing }.sweepCheck else tw

/-! ### The move queue and dispatch (R124, R127) -/

/-- An IDLE key becomes QUEUED; any other drive part is left. -/
def Drive.toQueued : Drive → Drive
  | .idle position => .queued position
  | d => d

/-- A QUEUED key becomes IDLE; any other drive part is left. -/
def Drive.toIdle : Drive → Drive
  | .queued position => .idle position
  | d => d

/-- An IDLE key is appended at the tail of the queue and becomes QUEUED (R124). -/
def Tower.enqueue (tw : Tower) (k : Nat) : Tower :=
  { tw.updateKey k (fun key => { key with drive := key.drive.toQueued }) with queue := tw.queue ++ [k] }

/-- A QUEUED key leaves the queue from where it stands and becomes IDLE (R126, R135). -/
def Tower.dequeue (tw : Tower) (k : Nat) : Tower :=
  { tw.updateKey k (fun key => { key with drive := key.drive.toIdle }) with queue := tw.queue.filter (· != k) }

/-- One turn of the dispatch check: the key at the head of the queue is sent its MOVE, or none where a condition of R127
fails. A QUEUED key always has a target (R127); a head without one, which no run reaches, is left where it is. -/
def Tower.dispatchHead (tw : Tower) : Option Tower :=
  match tw.queue with
  | [] => none
  | k :: rest =>
    if tw.running && decide (tw.moving < tw.config.drive.concurrency) then
      match tw.keys[k]? with
      | some key =>
        match key.drive, key.target with
        | .queued position, some target =>
          some (({ tw with queue := rest, moving := tw.moving + 1 }.setDrive k
            (.moving position target.steps tw.config.drive.moveTimeout)).send (.move k target.steps))
        | _, _ => none
      | none => none
    else none

/-- At most n turns of the dispatch check. -/
def Tower.dispatchTurns : Nat → Tower → Tower
  | 0, tw => tw
  | n + 1, tw =>
    match tw.dispatchHead with
    | some tw' => Tower.dispatchTurns n tw'
    | none => tw

/-- The dispatch check, repeated until one of its conditions fails (R127). -/
def Tower.dispatch (tw : Tower) : Tower := Tower.dispatchTurns tw.queue.length tw

/-- An IDLE key away from its target in a tower that is not DARK is appended to the queue (R131 step 4). -/
def Tower.requeue (tw : Tower) (k : Nat) : Tower := if tw.state != .dark && tw.isAway k then tw.enqueue k else tw

/-- The same with the dispatch check that follows an append (R126, R127, R135, R137). -/
def Tower.seekTarget (tw : Tower) (k : Nat) : Tower :=
  if tw.state != .dark && tw.isAway k then (tw.enqueue k).dispatch else tw

/-- A target change for key k, taken by its drive state and the tower state (R126). -/
def Tower.targetChange (tw : Tower) (k : Nat) : Tower :=
  match tw.keys[k]? with
  | some key =>
    match key.drive with
    | .idle _ => tw.seekTarget k
    | .queued position =>
      match key.steps with
      | some steps => if steps = position then (tw.dequeue k).drainCheck else tw
      | none => (tw.dequeue k).drainCheck
    | .unknown => tw
    | .moving _ _ _ => tw
    | .faulted _ _ => tw
  | none => tw

/-- The keys of a list that stand IDLE away from their targets are appended to the queue in its order (R108 step 5). -/
def Tower.enqueueAway (tw : Tower) (ks : List Nat) : Tower :=
  ks.foldl (fun tw k => if tw.isAway k then tw.enqueue k else tw) tw

/-! ### The end of a move and reports of a position (R131 to R137) -/

/-- What ends every move: the moving count falls by one and the key takes its new drive part (R131, R132, R133). -/
def Tower.endMove (tw : Tower) (k : Nat) (d : Drive) : Tower := { tw with moving := tw.moving - 1 }.setDrive k d

/-- The dispatch check and then the drain check that close the end of a move (R131, R132, R133). -/
def Tower.afterMove (tw : Tower) : Tower := tw.dispatch.drainCheck

/-- A reported position of an IDLE key, or the survey answer of an UNKNOWN key: the key is IDLE there, and is queued when
its target lies elsewhere and the tower is not DARK (R135, R137). -/
def Tower.standsAt (tw : Tower) (k : Nat) (position : Nat) : Tower := (tw.setDrive k (.idle position)).seekTarget k

/-- A reported position of a QUEUED key: it leaves the queue when its target steps now equal the position (R135). -/
def Tower.queuedAt (tw : Tower) (k : Nat) (position : Nat) : Tower :=
  match tw.keys[k]? with
  | some key =>
    if key.steps = some position then ((tw.setDrive k (.queued position)).dequeue k).drainCheck
    else tw.setDrive k (.queued position)
  | none => tw

end Sys2Proof.Machine
end

