-- ==== Sys2Proof/Machine/Preset.lean ====
section
/-! DEFINITION. The Preset Engine: the nine steps from RUN coverage to key targets and sweep (R58 to R68) and the refreshes
that carry them out (R57, R61, R62, R69 to R74). -/

namespace Sys2Proof.Machine

/-! ### Steps 1 and 2: coverage and lateral spread -/

/-- Step 1: the coverage under key k (R58). Read only while RUN is COMPLETE, when every zone is written. -/
def Tower.coverageUnder (tw : Tower) (k : Nat) : Nat := (tw.run.zone (tw.zoneOf k)).getD 0

/-- The keys that feed key k with their weights: up to two keys away, inside the duct and on its side of the split (R59). -/
def Tower.spread (tw : Tower) (k : Nat) : List (Nat × Nat) :=
  let m := tw.config.metering
  ((if 2 ≤ k then [(k - 2, m.w2)] else []) ++ (if 1 ≤ k then [(k - 1, m.w1)] else []) ++
    [(k, m.w0), (k + 1, m.w1), (k + 2, m.w2)]).filter fun jw => decide (jw.1 < tw.z) && sameRegion m.split jw.1 k

/-- Step 2: the effective coverage of key k, N/D rounded half up (R59). -/
def Tower.effectiveCoverage (tw : Tower) (k : Nat) : Nat :=
  let parts := tw.spread k
  roundHalfUp ((parts.map fun jw => jw.2 * tw.coverageUnder jw.1).sum) ((parts.map Prod.snd).sum)

/-! ### Step 3: curve lookup (R60) -/

/-- The opening on the line from point p to point q at coverage e. -/
def between (p q : Point) (e : Nat) : Nat :=
  ((p.opening : Int) + roundAway (((q.opening : Int) - p.opening) * ((e : Int) - p.coverage)) (q.coverage - p.coverage)).toNat

/-- The opening at e on a curve whose point p has coverage at most e. -/
def openingFrom (p : Point) (rest : List Point) (e : Nat) : Nat :=
  match rest with
  | [] => p.opening
  | q :: rest' => if e < q.coverage then between p q e else openingFrom q rest' e

/-- Step 3: the looked-up opening at e (R60). Read only of a USABLE curve. -/
def openingAt (points : List Point) (e : Nat) : Nat :=
  match points with
  | [] => 0
  | p :: rest => if e < p.coverage then p.opening else openingFrom p rest e

/-! ### Steps 4 to 8: scale, corrections, empty zones, limits, motor steps -/

/-- Step 4 (R63). -/
def scaledOpening (scale o : Nat) : Nat := roundHalfUp (o * scale) 100

/-- Steps 4, 5 and 6: the corrected opening t (R63, R64, R65). -/
def correctedOpening (m : Metering) (e o : Nat) (trim acc : Int) : Int :=
  if m.closeEmpty && e == 0 then (m.minOpen : Int) else (scaledOpening m.scale o : Int) + trim + acc

/-- Step 8: motor steps of an opening (R67). -/
def motorSteps (f opening : Nat) : Nat := roundHalfUp (opening * f) 1000

/-- Steps 7 and 8: the target of a corrected opening (R66, R67). -/
def limitedTarget (c : TowerConfig) (t : Int) : Target :=
  if t < c.metering.minOpen then
    { opening := c.metering.minOpen, steps := motorSteps c.geometry.f c.metering.minOpen, mark := .low }
  else if (c.metering.maxOpen : Int) < t then
    { opening := c.metering.maxOpen, steps := motorSteps c.geometry.f c.metering.maxOpen, mark := .high }
  else { opening := t.toNat, steps := motorSteps c.geometry.f t.toNat, mark := .none }

/-- A held target, clamped into the current limits with its steps computed anew (R61). -/
def heldTarget (c : TowerConfig) (g : Target) : Target :=
  if g.opening < c.metering.minOpen then
    { opening := c.metering.minOpen, steps := motorSteps c.geometry.f c.metering.minOpen, mark := .low }
  else if c.metering.maxOpen < g.opening then
    { opening := c.metering.maxOpen, steps := motorSteps c.geometry.f c.metering.maxOpen, mark := .high }
  else { g with steps := motorSteps c.geometry.f g.opening }

/-- The target a refresh gives key k of a tower whose RUN slot is COMPLETE (R58 to R67): computed on a USABLE curve, held
on an INCOMPLETE one. -/
def Tower.presetTarget (curves : Vector (List Point) 16) (tw : Tower) (k : Nat) (key : KeyRec) : Option Target :=
  let points := curves.get (tw.curveOf k)
  let e := tw.effectiveCoverage k
  if usable points then
    some (limitedTarget tw.config (correctedOpening tw.config.metering e (openingAt points e) key.trim key.acc))
  else key.target.map (heldTarget tw.config)

/-- What a refresh writes in key k's record: effective coverage and target, absent while RUN is not COMPLETE (R55, R56). -/
def Tower.presetKey (curves : Vector (List Point) 16) (tw : Tower) (k : Nat) (key : KeyRec) : KeyRec :=
  if tw.run.complete then
    { key with effective := some (tw.effectiveCoverage k), target := tw.presetTarget curves k key }
  else { key with effective := none, target := none }

/-! ### Step 9: sweep (R68) -/

/-- The sum of the effective coverages of all keys; each is present while RUN is COMPLETE (R55, R68). -/
def Tower.effectiveSum (tw : Tower) : Nat := (tw.keys.map fun key => key.effective.getD 0).sum

/-- Step 9: the tower's sweep, clamped into 5..100 (R68). -/
def Tower.presetSweep (tw : Tower) : Nat :=
  max 5 (min 100 (tw.config.metering.sweepBase +
    roundHalfUp (tw.config.metering.sweepGain * (tw.effectiveSum / tw.z)) 1000))

/-! ### Refreshes (R57) -/

/-- A refresh of one key: its record is written, and a change of its target steps handed on at once (R57). -/
def Tower.refreshKey (curves : Vector (List Point) 16) (tw : Tower) (k : Nat) : Tower :=
  match tw.keys[k]? with
  | some key =>
    let key' := tw.presetKey curves k key
    let tw' := tw.updateKey k fun _ => key'
    if key'.steps = key.steps then tw' else tw'.targetChange k
  | none => tw

/-- A refresh of the sweep, a change of which is handed on (R56, R57, R68). -/
def Tower.refreshSweep (tw : Tower) : Tower :=
  let v := if tw.run.complete then some tw.presetSweep else none
  if v = tw.sweep then tw else { tw with sweep := v }.sweepChange

/-- A refresh of a set of keys, in the order given (R57: ascending), and of the sweep where it covers it. -/
def Tower.refresh (curves : Vector (List Point) 16) (ks : List Nat) (sweepToo : Bool) (tw : Tower) : Tower :=
  let tw' := ks.foldl (Tower.refreshKey curves) tw
  if sweepToo then tw'.refreshSweep else tw'

/-- A refresh of these keys logs a CURVE_INCOMPLETE fault: RUN is COMPLETE and one of the keys has an INCOMPLETE curve
(R62). -/
def Tower.holdsAny (curves : Vector (List Point) 16) (ks : List Nat) (tw : Tower) : Bool :=
  tw.run.complete && ks.any fun k => !usable (curves.get (tw.curveOf k))

/-- A refresh of keys of tower t, with the fault it logs (R57, R62). -/
def State.refresh (s : State) (t : TowerIx) (ks : List Nat) (sweepToo : Bool) : State :=
  let s' := s.setTower t ((s.tower t).refresh s.curves ks sweepToo)
  if (s.tower t).holdsAny s.curves ks then s'.logFault .curveIncomplete (.tower t) else s'

/-- All keys of a tower, in ascending order. -/
def Tower.allKeys (tw : Tower) : List Nat := List.range tw.z

/-- A refresh of every key of tower t, and the sweep (R70, R71, R74). -/
def State.refreshTower (s : State) (t : TowerIx) : State := s.refresh t (s.tower t).allKeys true

/-- A refresh of one key alone (R73). -/
def State.refreshKey (s : State) (t : TowerIx) (k : Nat) : State := s.refresh t [k] false

/-- The keys that a change of these zones reaches: within two keys, in the same region, of a key under one (R69). -/
def Tower.keysNear (tw : Tower) (zones : List Nat) : List Nat :=
  tw.allKeys.filter fun k =>
    zones.any fun z => sameRegion tw.config.metering.split k (tw.zoneOf z) && decide (stepDistance k (tw.zoneOf z) ≤ 2)

/-- The keys of a tower that look up curve c (R72). -/
def Tower.keysOn (tw : Tower) (c : CurveIx) : List Nat := tw.allKeys.filter fun k => tw.curveOf k == c

/-- A change of curve c refreshes, tower by tower in ascending order, the keys that look it up (R51, R72). A tower that
names the curve for no key refreshes an empty set, which computes nothing and logs nothing. -/
def State.refreshCurve (s : State) (c : CurveIx) : State :=
  (List.finRange 12).foldl (fun s t => s.refresh t ((s.tower t).keysOn c) false) s

end Sys2Proof.Machine
end

