-- ==== Sys2Proof/Machine/Requests.lean ====
section
/-! DEFINITION. The request check order shared by all master functions (R151): rank (R152), length (R153), access (R154), then
the function's own steps 6 to 8; and the reply (R149, R175). -/

namespace Sys2Proof.Machine

/-- The rank of a port (R146). -/
def portRank : MasterPort → Nat
  | .console => 0
  | .plate => 1
  | .scanner => 2

/-- The rank a function requires (R152). -/
def requiredRank : MasterFn → Nat
  | .identify | .sheetGet | .towerStatus | .keyStatus | .configGet | .zonesRead | .zonesAbove | .curveSelect | .curveGet
  | .windowSet | .writeModeSet | .measure => 2
  | .zonesWrite | .zonesFill | .slotClear | .slotTagSet | .curvePut | .curveClear => 1
  | .configSet | .engage | .disengage | .jobChange | .hold | .release | .trimSet | .trimNudge | .clearKeyFault
  | .faultsTake | .accessSet | .restart => 0

/-- n bytes are a list of 1 to limit elements of a size behind fixed bytes (R153). -/
def listFits (fixed size limit n : Nat) : Bool :=
  decide (fixed + size ≤ n ∧ n ≤ fixed + size * limit) && (n - fixed) % size == 0

/-- The number of body bytes after the function byte fits the function's layout (R153, R176). -/
def lengthFits (fn : MasterFn) (n : Nat) : Bool :=
  match fn with
  | .identify | .sheetGet | .zonesRead | .restart => n == 0
  | .towerStatus | .configGet | .faultsTake | .curveGet | .curveClear | .engage | .disengage | .hold | .release => n == 1
  | .zonesFill | .zonesAbove | .slotClear | .curveSelect | .jobChange | .clearKeyFault => n == 2
  | .keyStatus => n == 3
  | .windowSet => n == 4
  | .slotTagSet | .accessSet => n == 7
  | .writeModeSet => n == 8
  | .configSet => n == 30
  | .zonesWrite => listFits 0 2 48 n
  | .curvePut => listFits 0 2 62 n
  | .trimSet => listFits 1 3 48 n
  | .trimNudge => listFits 1 2 48 n
  | .measure => listFits 5 3 48 n

/-- The member of a deny map that a tower field names: none outside 0..11 (R154). -/
def towerMember (args : List Byte) : Option Nat :=
  match args with
  | b :: _ => (readTower b).map Fin.val
  | [] => none

/-- The member that step 5 checks (R154): a tower's number, 12 for CURVES, none where nothing is checked. -/
def State.accessMember (s : State) (p : MasterPort) (fn : MasterFn) (args : List Byte) : Option Nat :=
  match fn with
  | .measure | .slotClear | .slotTagSet => towerMember args
  | .zonesWrite | .zonesFill => some (s.port p).ctx.tower.val
  | .curvePut | .curveClear => some 12
  | .identify | .sheetGet | .towerStatus | .keyStatus | .configGet | .faultsTake | .windowSet | .writeModeSet | .zonesRead
  | .zonesAbove | .curveSelect | .curveGet | .configSet | .engage | .disengage | .jobChange | .hold | .release | .trimSet
  | .trimNudge | .clearKeyFault | .accessSet | .restart => none

/-- The access check refuses a port whose rank is above the trust level and whose deny map holds the member (R154). -/
def State.denies (s : State) (p : MasterPort) (member : Option Nat) : Bool :=
  decide (s.access.trust < portRank p) &&
    match member with
    | some m => (s.access.denyMap p).getLsbD m
    | none => false

/-- The refusal of steps 3, 4 and 5, none for a request that passes them (R151). -/
def State.earlyRefusal (s : State) (p : MasterPort) (fn : MasterFn) (args : List Byte) : Option Result :=
  if requiredRank fn < portRank p then some .rank
  else if !lengthFits fn args.length then some .length
  else if s.denies p (s.accessMember p fn args) then some .denied
  else none

/-- What steps 6, 7 and 8 make of a request: a refusal, or the state it leaves with its result and reply data. -/
abbrev Taken := Except Result (State × Result × List Byte)

/-- A request of a function on a port, whose steps 6 to 8 are `body` (R149, R151).
Nothing reaches a busy port (R148). A refused request changes nothing and is answered with two bytes (R175). -/
def State.takeRequest (s : State) (p : MasterPort) (fn : MasterFn) (args : List Byte)
    (body : MasterPort → List Byte → State → Taken) : State :=
  if s.busy p then s
  else
    match s.earlyRefusal p fn args with
    | some r => s.sendReply p [replyByte fn.code, r.code]
    | none =>
      match body p args s with
      | .error r => s.sendReply p [replyByte fn.code, r.code]
      | .ok (s', r, data) => s'.sendReply p (replyByte fn.code :: r.code :: data)

/-- The result of a request that clamps: OK_CLAMPED when it was marked, OK otherwise (R155). -/
def clampResult (clamped : Bool) : Result := if clamped then .okClamped else .ok

end Sys2Proof.Machine
end

