-- ==== Sys2Proof/Machine/AccessControl.lean ====
section
/-! DEFINITION. ACCESS SET: the trust level and the three deny maps (R157, R158, R174). -/

namespace Sys2Proof.Machine

/-- A deny map as sent: two bytes, the bits above CURVES clear (R174). -/
def denyMapBytes (m : BitVec 13) : List Byte := bytes16 m.toNat

/-- Steps 6 to 8 of ACCESS SET (R158). -/
def takeAccessSet (_p : MasterPort) (args : List Byte) (s : State) : Taken :=
  match args with
  | [tl, c1, c0, p1, p0, q1, q0] =>
    match readDenyMap c1 c0, readDenyMap p1 p0, readDenyMap q1 q0 with
    | some console, some plate, some scanner =>
      if tl.toNat ≤ 2 then
        .ok ({ s with access := { trust := tl.toNat, console, plate, scanner } }, .ok,
          tl :: (denyMapBytes console ++ denyMapBytes plate ++ denyMapBytes scanner))
      else .error .range
    | _, _, _ => .error .range
  | _ => .error .length

/-- ACCESS SET (R158). -/
def execAccessSet (p : MasterPort) (args : List Byte) (s : State) : Host.Outcome State Fault Refusal :=
  .next (s.takeRequest p .accessSet args takeAccessSet)

end Sys2Proof.Machine
end

