-- ==== Sys2Proof/Machine/Coverage.lean ====
section
/-! DEFINITION. The Plate Coverage Store: write contexts (R23 to R27), combining (R28), streaming, filling and reading zones
(R29 to R35), whole-slot requests (R36, R37), the hand-over of RUN changes (R22, R69, R70), and the plate move (R38). -/

namespace Sys2Proof.Machine

/-! ### Slots -/

/-- The tower with the slot of a name replaced. -/
def Tower.setSlot (tw : Tower) (n : SlotName) (sl : Slot) : Tower :=
  match n with
  | .run => { tw with run := sl }
  | .next => { tw with next := sl }

/-- The RUN-slot restriction: RUN is written only in DARK and HELD, NEXT in every state (R21). -/
def Tower.mayStore (tw : Tower) (n : SlotName) : Bool :=
  match n with
  | .run => tw.state == .dark || tw.state == .held
  | .next => true

/-- The value stored into a masked-in zone: an unwritten old value is taken as 0 (R28). -/
def combine (mode : Mode) (old : Option Nat) (v : Nat) : Nat :=
  match mode with
  | .replace => v
  | .add => if 1000 < old.getD 0 + v then 1000 else old.getD 0 + v
  | .subtract => old.getD 0 - v
  | .max => max (old.getD 0) v

/-- A value stored into a zone of a slot; the zone is written afterwards (R28). -/
def Slot.store (sl : Slot) (mode : Mode) (z v : Nat) : Slot :=
  { sl with coverage := sl.coverage.set z (some (combine mode (sl.zone z) v)) }

/-- The zones whose stored value or written status differ between two coverage lists (R22). -/
def changedZones (old new : List (Option Nat)) : List Nat :=
  (List.range new.length).filter fun z => old[z]? != new[z]?

/-- A change of the coverage of tower t's RUN slot, which was `old`, handed to the Preset Engine: a whole-tower refresh
when the slot entered or left COMPLETE, a refresh around the changed zones when it was and stays COMPLETE (R22, R69, R70). -/
def State.handOnCoverage (s : State) (t : TowerIx) (old : Slot) : State :=
  let tw := s.tower t
  if old.complete != tw.run.complete then s.refreshTower t
  else
    let zones := changedZones old.coverage tw.run.coverage
    if tw.run.complete && !zones.isEmpty then s.refresh t (tw.keysNear zones) true else s

/-- The state once the slot a context names holds `sl`, with a RUN change handed on (R22). -/
def State.storeSlot (s : State) (t : TowerIx) (n : SlotName) (sl : Slot) : State :=
  let old := s.tower t
  let s' := s.setTower t (old.setSlot n sl)
  match n with
  | .run => s'.handOnCoverage t old.run
  | .next => s'

/-! ### Write contexts -/

/-- The window end at which the pointer is placed (R24). -/
def WriteContext.placed (c : WriteContext) : WriteContext :=
  { c with pointer := some (match c.direction with
    | .up => c.first
    | .down => c.last) }

/-- The pointer after a value consumed at zone z: EXHAUSTED past the window's end (R30 step 4). -/
def WriteContext.advance (c : WriteContext) (z : Nat) : Option Nat :=
  match c.direction with
  | .up => if c.last ≤ z then none else some (z + 1)
  | .down => if z ≤ c.first then none else some (z - 1)

/-- A zone is a member of the context's mask (R27). -/
def WriteContext.masksIn (c : WriteContext) (z : Nat) : Bool := c.mask.getLsbD z

/-- The zones of the window, ascending. -/
def WriteContext.window (c : WriteContext) : List Nat := (List.range (c.last + 1 - c.first)).map (c.first + ·)

/-- The pointer as sent: 0xFF when EXHAUSTED (R172). -/
def WriteContext.pointerByte (c : WriteContext) : Byte := byteOption c.pointer

/-- The write context block (R175). -/
def WriteContext.block (c : WriteContext) : List Byte :=
  [byteOf c.tower.val, c.slot.code, byteOf c.first, byteOf c.last, c.pointerByte, c.direction.code, c.mode.code] ++
    bytes48 c.mask

/-- Steps 6 to 8 of WINDOW SET (R25). -/
def takeWindowSet (p : MasterPort) (args : List Byte) (s : State) : Taken :=
  match args with
  | [b, sl, first, last] =>
    match readTower b, readSlot sl with
    | some t, some slot =>
      if first.toNat ≤ last.toNat ∧ last.toNat < (s.tower t).z then
        let c := { (s.port p).ctx with tower := t, slot := slot, first := first.toNat, last := last.toNat }.placed
        .ok (s.setCtx p c, .ok, c.block)
      else .error .range
    | _, _ => .error .range
  | _ => .error .length

/-- WINDOW SET (R25). -/
def execWindowSet (p : MasterPort) (args : List Byte) (s : State) : Host.Outcome State Fault Refusal :=
  .next (s.takeRequest p .windowSet args takeWindowSet)

/-- Steps 6 to 8 of WRITE MODE SET (R26). -/
def takeWriteModeSet (p : MasterPort) (args : List Byte) (s : State) : Taken :=
  match args with
  | [m, d, m5, m4, m3, m2, m1, m0] =>
    match readMode m, readDirection d with
    | some mode, some direction =>
      let c := { (s.port p).ctx with mode := mode, direction := direction, mask := be48 m5 m4 m3 m2 m1 m0 }.placed
      .ok (s.setCtx p c, .ok, c.block)
    | _, _ => .error .range
  | _ => .error .length

/-- WRITE MODE SET (R26). -/
def execWriteModeSet (p : MasterPort) (args : List Byte) (s : State) : Host.Outcome State Fault Refusal :=
  .next (s.takeRequest p .writeModeSet args takeWriteModeSet)

/-! ### Streaming and filling -/

/-- The course of a ZONES WRITE: the slot, the context with its pointer, the values consumed inside the window (R30, R31). -/
structure Stream where
  slot : Slot
  ctx : WriteContext
  consumed : Nat
  deriving DecidableEq, Repr

/-- One value, clamped, taken at the pointer as it stands (R30). -/
def Stream.value (st : Stream) (v : Nat) : Stream :=
  match st.ctx.pointer with
  | none => st
  | some z =>
    { slot := if st.ctx.masksIn z then st.slot.store st.ctx.mode z (clampCoverage v) else st.slot
      ctx := { st.ctx with pointer := st.ctx.advance z }
      consumed := st.consumed + 1 }

/-- Any value above 1000 marks the request as clamped, discarded values included (R30 step 1). -/
def anyClamped (values : List Nat) : Bool := values.any fun v => decide (1000 < v)

/-- Steps 6 to 8 of ZONES WRITE (R29, R30, R31). -/
def takeZonesWrite (p : MasterPort) (args : List Byte) (s : State) : Taken :=
  let ctx := (s.port p).ctx
  if (s.tower ctx.tower).mayStore ctx.slot then
    let values := readWords args
    let st := values.foldl Stream.value { slot := (s.tower ctx.tower).slot ctx.slot, ctx, consumed := 0 }
    .ok ((s.setCtx p st.ctx).storeSlot ctx.tower ctx.slot st.slot, clampResult (anyClamped values),
      [byteOf st.consumed, st.ctx.pointerByte])
  else .error .state

/-- ZONES WRITE (R29). -/
def execZonesWrite (p : MasterPort) (args : List Byte) (s : State) : Host.Outcome State Fault Refusal :=
  .next (s.takeRequest p .zonesWrite args takeZonesWrite)

/-- A value stored into every masked-in zone of the window (R33). -/
def WriteContext.fill (c : WriteContext) (v : Nat) (sl : Slot) : Slot :=
  (c.window.filter c.masksIn).foldl (fun sl z => sl.store c.mode z (clampCoverage v)) sl

/-- Steps 6 to 8 of ZONES FILL (R33). -/
def takeZonesFill (p : MasterPort) (args : List Byte) (s : State) : Taken :=
  match args with
  | [a, b] =>
    let ctx := (s.port p).ctx
    if (s.tower ctx.tower).mayStore ctx.slot then
      .ok (s.storeSlot ctx.tower ctx.slot (ctx.fill (be16 a b) ((s.tower ctx.tower).slot ctx.slot)),
        clampResult (anyClamped [be16 a b]), [byteOf (ctx.window.filter ctx.masksIn).length])
    else .error .state
  | _ => .error .length

/-- ZONES FILL (R33). -/
def execZonesFill (p : MasterPort) (args : List Byte) (s : State) : Host.Outcome State Fault Refusal :=
  .next (s.takeRequest p .zonesFill args takeZonesFill)

/-! ### Reading -/

/-- The zones of the window in the context's direction (R34). -/
def WriteContext.inDirection (c : WriteContext) : List Nat :=
  match c.direction with
  | .up => c.window
  | .down => c.window.reverse

/-- Steps 6 to 8 of ZONES READ (R34). -/
def takeZonesRead (p : MasterPort) (_args : List Byte) (s : State) : Taken :=
  let c := (s.port p).ctx
  let sl := (s.tower c.tower).slot c.slot
  .ok (s, .ok, [byteOf c.tower.val, c.slot.code, byteOf c.first, byteOf c.last, c.direction.code] ++
    c.inDirection.flatMap fun z => bytesOption16 (sl.zone z))

/-- ZONES READ (R34). -/
def execZonesRead (p : MasterPort) (args : List Byte) (s : State) : Host.Outcome State Fault Refusal :=
  .next (s.takeRequest p .zonesRead args takeZonesRead)

/-- The zones of the window that are masked in, written, and not below a threshold (R35). -/
def WriteContext.above (c : WriteContext) (sl : Slot) (threshold : Nat) : List Nat :=
  c.window.filter fun z =>
    c.masksIn z &&
      match sl.zone z with
      | some v => decide (threshold ≤ v)
      | none => false

/-- A set of zones as 48 bits (R174). -/
def zoneSet (zones : List Nat) : BitVec 48 := zones.foldl (fun w z => w ||| (1#48 <<< z)) 0#48

/-- Steps 6 to 8 of ZONES ABOVE (R35). -/
def takeZonesAbove (p : MasterPort) (args : List Byte) (s : State) : Taken :=
  match args with
  | [a, b] =>
    let c := (s.port p).ctx
    .ok (s, .ok, bytes48 (zoneSet (c.above ((s.tower c.tower).slot c.slot) (be16 a b))))
  | _ => .error .length

/-- ZONES ABOVE (R35). -/
def execZonesAbove (p : MasterPort) (args : List Byte) (s : State) : Host.Outcome State Fault Refusal :=
  .next (s.takeRequest p .zonesAbove args takeZonesAbove)

/-! ### Whole-slot requests -/

/-- Steps 6 to 8 of SLOT CLEAR (R36): for RUN, a slot that leaves COMPLETE or whose mirrored flag changes refreshes the
tower (R5, R22, R70). -/
def takeSlotClear (_p : MasterPort) (args : List Byte) (s : State) : Taken :=
  match args with
  | [b, n] =>
    match readTower b, readSlot n with
    | some t, some slot =>
      let tw := s.tower t
      if tw.mayStore slot then
        let s' := s.setTower t (tw.setSlot slot (Slot.emptied (tw.slot slot).coverage.length))
        match slot with
        | .run => .ok (if tw.run.complete || tw.run.mirrored then s'.refreshTower t else s', .ok, [])
        | .next => .ok (s', .ok, [])
      else .error .state
    | _, _ => .error .range
  | _ => .error .length

/-- SLOT CLEAR (R36). -/
def execSlotClear (p : MasterPort) (args : List Byte) (s : State) : Host.Outcome State Fault Refusal :=
  .next (s.takeRequest p .slotClear args takeSlotClear)

/-- Steps 6 to 8 of SLOT TAG SET (R37): for RUN, a change of the mirrored flag refreshes the tower (R5). -/
def takeSlotTagSet (_p : MasterPort) (args : List Byte) (s : State) : Taken :=
  match args with
  | [b, n, t3, t2, t1, t0, m] =>
    match readTower b, readSlot n, readFlag m with
    | some t, some slot, some mirrored =>
      let tw := s.tower t
      if tw.mayStore slot then
        let s' := s.setTower t
          (tw.setSlot slot { tw.slot slot with tag := some (be32 t3 t2 t1 t0), mirrored := mirrored })
        match slot with
        | .run => .ok (if tw.run.mirrored != mirrored then s'.refreshTower t else s', .ok, [])
        | .next => .ok (s', .ok, [])
      else .error .state
    | _, _, _ => .error .range
  | _ => .error .length

/-- SLOT TAG SET (R37). -/
def execSlotTagSet (p : MasterPort) (args : List Byte) (s : State) : Host.Outcome State Fault Refusal :=
  .next (s.takeRequest p .slotTagSet args takeSlotTagSet)

/-! ### The plate move of a job change -/

/-- The NEXT plate moves into RUN and NEXT becomes EMPTY (R38 steps 1 and 2). -/
def Tower.movePlate (tw : Tower) : Tower := { tw with run := tw.next, next := Slot.emptied tw.next.coverage.length }

end Sys2Proof.Machine
end

