-- ==== Sys2Proof/Machine/Configuration.lean ====
section
/-! DEFINITION. The tower configuration record: CONFIG SET with its checks and effects (R11 to R16) and CONFIG GET (R17). -/

namespace Sys2Proof.Machine

/-- The state step of CONFIG SET: geometry changes only in DARK, concurrency only in DARK with no key MOVING (R13). -/
def Tower.allowsConfig (tw : Tower) (c : TowerConfig) : Bool :=
  (c.geometry == tw.config.geometry || tw.state == .dark) &&
    (c.drive.concurrency == tw.config.drive.concurrency || (tw.state == .dark && tw.countIn .moving == 0))

/-- A change of Z reshapes the tower (R15): both slots EMPTY with the new zone count, cut keys gone with their moves off
the moving count, added keys created and surveyed in ascending order. -/
def Tower.reshape (tw : Tower) (z : Nat) : Tower :=
  let old := tw.keys.length
  ({ tw with
      run := Slot.emptied z
      next := Slot.emptied z
      keys := tw.keys.take z ++ List.replicate (z - old) KeyRec.fresh
      moving := tw.moving - (tw.keys.drop z).countP fun key : KeyRec => key.drive.state == DriveState.moving }).surveyAll
    ((List.range (z - old)).map (old + ·))

/-- A write context that names tower t is reset to the whole-tower window of z zones (R15 step 2). -/
def WriteContext.resetFor (c : WriteContext) (t : TowerIx) (z : Nat) : WriteContext :=
  if c.tower = t then { c with first := 0, last := z - 1 }.placed else c

/-- Every master port's write context that names tower t is reset (R15 step 2). -/
def State.resetContexts (s : State) (t : TowerIx) (z : Nat) : State :=
  { s with masters := {
      console := { s.masters.console with ctx := s.masters.console.ctx.resetFor t z }
      plate := { s.masters.plate with ctx := s.masters.plate.ctx.resetFor t z }
      scanner := { s.masters.scanner with ctx := s.masters.scanner.ctx.resetFor t z } } }

/-- The record of tower t is replaced, with the effects of R14, R15 and R16: a change of Z reshapes the tower first, and a
change of a field the Preset Engine reads refreshes it. -/
def State.configure (s : State) (t : TowerIx) (c : TowerConfig) : State :=
  let old := s.tower t
  let tw := { old with config := c }
  let s' :=
    if c.geometry.z = old.z then s.setTower t tw
    else (s.setTower t (tw.reshape c.geometry.z)).resetContexts t c.geometry.z
  if c.geometry = old.config.geometry ∧ c.metering = old.config.metering then s' else s'.refreshTower t

/-- Steps 6 to 8 of CONFIG SET (R11, R12, R13). -/
def takeConfigSet (_p : MasterPort) (args : List Byte) (s : State) : Taken :=
  match args with
  | b :: record =>
    match readTower b, readConfig record with
    | some t, some c =>
      if c.inRange then
        if (s.tower t).allowsConfig c.clampScale then
          .ok (s.configure t c.clampScale, clampResult (decide (c.clampScale ≠ c)), [])
        else .error .state
      else .error .range
    | _, _ => .error .range
  | [] => .error .length

/-- CONFIG SET (R11). -/
def execConfigSet (p : MasterPort) (args : List Byte) (s : State) : Host.Outcome State Fault Refusal :=
  .next (s.takeRequest p .configSet args takeConfigSet)

/-- Steps 6 to 8 of CONFIG GET (R17). -/
def takeConfigGet (_p : MasterPort) (args : List Byte) (s : State) : Taken :=
  match args with
  | [b] =>
    match readTower b with
    | some t => .ok (s, .ok, b :: configBytes (s.tower t).config)
    | none => .error .range
  | _ => .error .length

/-- CONFIG GET (R17). -/
def execConfigGet (p : MasterPort) (args : List Byte) (s : State) : Host.Outcome State Fault Refusal :=
  .next (s.takeRequest p .configGet args takeConfigGet)

end Sys2Proof.Machine
end

