-- ==== Sys2Proof/Machine/Curves.lean ====
section
/-! DEFINITION. The curve table and the curve cursors: CURVE SELECT (R46), CURVE PUT (R47 to R51), CURVE GET (R52),
CURVE CLEAR (R53). -/

namespace Sys2Proof.Machine

/-- The curve cursor block: the cursor and the count of its curve as they stand (R45, R175). -/
def State.cursorBlock (s : State) (p : MasterPort) : List Byte :=
  let c := (s.port p).cursor
  [byteOf c.curve.val, byteOf c.index, c.phase.code] ++
  (match c.phase with
   | .even => [0x00#8, 0x00#8]
   | .half held => bytes16 held) ++
  [c.lastOp.code, byteOf (s.curve c.curve).length]

/-- Steps 6 to 8 of CURVE SELECT (R46). -/
def takeCurveSelect (p : MasterPort) (args : List Byte) (s : State) : Taken :=
  match args with
  | [b, i] =>
    match readCurve b with
    | some c =>
      if i.toNat ≤ 12 then
        let s' := s.setCursor p { curve := c, index := i.toNat, phase := .even, lastOp := .none }
        .ok (s', .ok, s'.cursorBlock p)
      else .error .range
    | none => .error .range
  | _ => .error .length

/-- CURVE SELECT (R46). -/
def execCurveSelect (p : MasterPort) (args : List Byte) (s : State) : Host.Outcome State Fault Refusal :=
  .next (s.takeRequest p .curveSelect args takeCurveSelect)

/-- A commit of a point at index i of a curve: the curve it leaves, none where it fails with ORDER (R49). -/
def commitPoint (points : List Point) (i coverage opening : Nat) : Option (List Point) :=
  let below := decide (i = 0) ||
    match points[i - 1]? with
    | some q => decide (q.coverage < coverage)
    | none => true
  let above :=
    match points[i + 1]? with
    | some q => decide (coverage < q.coverage)
    | none => true
  if points.length < i ∨ i = Config.maxPoints ∨ !below ∨ !above then none
  else if i = points.length then some (points ++ [{ coverage := coverage, opening := opening }])
  else some (points.set i { coverage := coverage, opening := opening })

/-- The words of a CURVE PUT, taken in order until one fails: the state left, the result, and the points committed
(R48, R49, R50, R51). -/
def State.putWords (p : MasterPort) : List Nat → Nat → State → State × Result × Nat
  | [], n, s => (s, .ok, n)
  | w :: rest, n, s =>
    let c := (s.port p).cursor
    if 1000 < w then (s.setCursor p { c with phase := .even }, .range, n)
    else
      match c.phase with
      | .even => State.putWords p rest n (s.setCursor p { c with phase := .half w })
      | .half held =>
        match commitPoint (s.curve c.curve) c.index held w with
        | none => (s.setCursor p { c with phase := .even }, .order, n)
        | some points =>
          State.putWords p rest (n + 1)
            (((s.setCurve c.curve points).setCursor p
              { c with index := c.index + 1, phase := .even, lastOp := .write }).refreshCurve c.curve)

/-- Steps 6 to 8 of CURVE PUT (R47, R48, R50). -/
def takeCurvePut (p : MasterPort) (args : List Byte) (s : State) : Taken :=
  let out := State.putWords p (readWords args) 0 s
  .ok (out.1, out.2.1, byteOf out.2.2 :: out.1.cursorBlock p)

/-- CURVE PUT (R47). -/
def execCurvePut (p : MasterPort) (args : List Byte) (s : State) : Host.Outcome State Fault Refusal :=
  .next (s.takeRequest p .curvePut args takeCurvePut)

/-- A point in a reply (R176). -/
def Point.bytes (q : Point) : List Byte := bytes16 q.coverage ++ bytes16 q.opening

/-- Steps 6 to 8 of CURVE GET (R52). -/
def takeCurveGet (p : MasterPort) (args : List Byte) (s : State) : Taken :=
  match args with
  | [n] =>
    if 1 ≤ n.toNat ∧ n.toNat ≤ 12 then
      let c := (s.port p).cursor
      let points := ((s.curve c.curve).drop c.index).take n.toNat
      let s' := s.setCursor p { c with index := c.index + points.length, phase := .even, lastOp := .read }
      .ok (s', .ok, byteOf points.length :: s'.cursorBlock p ++ points.flatMap Point.bytes)
    else .error .range
  | _ => .error .length

/-- CURVE GET (R52). -/
def execCurveGet (p : MasterPort) (args : List Byte) (s : State) : Host.Outcome State Fault Refusal :=
  .next (s.takeRequest p .curveGet args takeCurveGet)

/-- A cursor after its curve or another was cleared: reset when it names the cleared one (R53 step 2). -/
def Cursor.clearedFor (c : Cursor) (curve : CurveIx) : Cursor :=
  if c.curve = curve then { c with index := 0, phase := .even, lastOp := .none } else c

/-- Every port's cursor that names a curve is reset (R53 step 2). -/
def State.resetCursors (s : State) (curve : CurveIx) : State :=
  { s with masters := {
      console := { s.masters.console with cursor := s.masters.console.cursor.clearedFor curve }
      plate := { s.masters.plate with cursor := s.masters.plate.cursor.clearedFor curve }
      scanner := { s.masters.scanner with cursor := s.masters.scanner.cursor.clearedFor curve } } }

/-- Steps 6 to 8 of CURVE CLEAR (R53). -/
def takeCurveClear (p : MasterPort) (args : List Byte) (s : State) : Taken :=
  match args with
  | [b] =>
    match readCurve b with
    | some c =>
      let s' := ((s.setCurve c []).resetCursors c).refreshCurve c
      .ok (s', .ok, s'.cursorBlock p)
    | none => .error .range
  | _ => .error .length

/-- CURVE CLEAR (R53). -/
def execCurveClear (p : MasterPort) (args : List Byte) (s : State) : Host.Outcome State Fault Refusal :=
  .next (s.takeRequest p .curveClear args takeCurveClear)

end Sys2Proof.Machine
end

