-- ==== Sys2Proof/Machine/Loop.lean ====
section
/-! DEFINITION. Closed-loop density correction: MEASURE (R96 to R102) and the loop counters (R104). -/

namespace Sys2Proof.Machine

/-- The correction of a deviation beyond the deadband: the negative of the raw correction, limited to the step limit
(R96 steps 2 and 3). -/
def loopDelta (l : LoopSettings) (dev : Int) : Int := clamp (-(l.stepLimit : Int)) l.stepLimit (-(roundAway (dev * l.gain) 1000))

/-- The counts of one MEASURE (R102). -/
abbrev MeasureCounts := LoopCounters

/-- A key's accumulator becomes a value; a change refreshes the key alone (R97). -/
def State.putAcc (s : State) (t : TowerIx) (k : Nat) (old v : Int) : State :=
  if v = old then s
  else (s.setTower t ((s.tower t).updateKey k fun key => { key with acc := v })).refreshKey t k

/-- One entry of a MEASURE in a PRINTING tower with its loop enabled: the state left and the count it falls under
(R96, R100). An entry of a key the tower does not have, which R98 refuses, counts as state-skipped. -/
def State.measureEntry (s : State) (t : TowerIx) (sheet : Sheet) (k : Nat) (value : Int) (n : MeasureCounts) :
    State × MeasureCounts :=
  let loop := (s.tower t).config.loop
  let dev := clamp (-1000) 1000 value
  match (s.tower t).keys[k]? with
  | some key =>
    if key.drive.state ≠ .idle then (s, { n with stateSkipped := n.stateSkipped + 1 })
    else if sheetBefore sheet key.settleUntil then (s, { n with settleSkipped := n.settleSkipped + 1 })
    else if dev.natAbs ≤ loop.deadband then (s, { n with deadbandSkipped := n.deadbandSkipped + 1 })
    else (s.putAcc t k key.acc (clamp (-200) 200 (key.acc + loopDelta loop dev)), { n with applied := n.applied + 1 })
  | none => (s, { n with stateSkipped := n.stateSkipped + 1 })

/-- The entries of a MEASURE that are handled, in message order (R100). -/
def State.measureEntries (t : TowerIx) (sheet : Sheet) : List (Nat × Int) → MeasureCounts → State → State × MeasureCounts
  | [], n, s => (s, n)
  | (k, value) :: rest, n, s =>
    let out := s.measureEntry t sheet k value n
    State.measureEntries t sheet rest out.2 out.1

/-- The gate of R99: entries are handled in a PRINTING tower with its loop enabled, and else all state-skipped. -/
def State.measure (s : State) (t : TowerIx) (sheet : Sheet) (entries : List (Nat × Int)) : State × MeasureCounts :=
  if (s.tower t).state = .printing ∧ (s.tower t).config.loop.enable then
    State.measureEntries t sheet entries LoopCounters.zero s
  else (s, { LoopCounters.zero with stateSkipped := entries.length })

/-- The counters of a tower after a MEASURE: each saturates at 65535 (R104). -/
def LoopCounters.plus (c : LoopCounters) (n : MeasureCounts) : LoopCounters where
  applied := min 65535 (c.applied + n.applied)
  settleSkipped := min 65535 (c.settleSkipped + n.settleSkipped)
  deadbandSkipped := min 65535 (c.deadbandSkipped + n.deadbandSkipped)
  stateSkipped := min 65535 (c.stateSkipped + n.stateSkipped)

/-- Counts are added to tower t's loop counters (R104). -/
def State.addCounts (s : State) (t : TowerIx) (n : MeasureCounts) : State :=
  s.setTower t { s.tower t with counters := (s.tower t).counters.plus n }

/-- A deviation of the message is clamped (R101). -/
def anyDeviationClamped (entries : List (Nat × Int)) : Bool := entries.any fun e => decide (clamp (-1000) 1000 e.2 ≠ e.2)

/-- Steps 6 to 8 of MEASURE (R98 to R102). -/
def takeMeasure (_p : MasterPort) (args : List Byte) (s : State) : Taken :=
  match args with
  | b :: s3 :: s2 :: s1 :: s0 :: rest =>
    let sheet := be32 s3 s2 s1 s0
    let entries := readKeyValues rest
    match readTower b with
    | some t =>
      if (entries.all fun e => decide (e.1 < (s.tower t).z)) && !sheetAfter sheet s.sheets then
        let out := s.measure t sheet entries
        .ok (out.1.addCounts t out.2, clampResult (anyDeviationClamped entries),
          [byteOf out.2.applied, byteOf out.2.settleSkipped, byteOf out.2.deadbandSkipped, byteOf out.2.stateSkipped])
      else .error .range
    | none => .error .range
  | _ => .error .length

/-- MEASURE (R98). -/
def execMeasure (p : MasterPort) (args : List Byte) (s : State) : Host.Outcome State Fault Refusal :=
  .next (s.takeRequest p .measure args takeMeasure)

end Sys2Proof.Machine
end

