-- ==== Sys2Proof/Machine/Power.lean ====
section
/-! DEFINITION. Power-on (R138), the sheet pulse (R89), and the restart: RESTART (R144), the restart taking effect (R144,
R141, R122) and the end of a reply (R148). -/

namespace Sys2Proof.Machine

/-- POWER_ON: every block takes its power-on values, every key enters the survey (R138); the queue is not the part's. -/
def execPowerOn (s : State) : Host.Outcome State Fault Refusal := .next { State.reset with pending := s.pending }

/-- SHEET_PULSE: the sheet count advances by one, wrapping (R89). -/
def execSheetPulse (s : State) : Host.Outcome State Fault Refusal := .next { s with sheets := s.sheets + 1#32 }

/-- Steps 6 to 8 of RESTART: it is accepted, and takes effect when its reply has been sent (R144). -/
def takeRestart (_p : MasterPort) (_args : List Byte) (s : State) : Taken :=
  .ok ({ s with restartPending := true }, .ok, [])

/-- RESTART (R144). -/
def execRestart (p : MasterPort) (args : List Byte) (s : State) : Host.Outcome State Fault Refusal :=
  .next (s.takeRequest p .restart args takeRestart)

/-- A drive port at the restart: the message being sent is completed, those not begun are not sent, and the receive framer
returns to HUNT (R141). -/
def DrivePort.restarted (d : DrivePort) : DrivePort := { d with framer := Framer.hunting, waiting := [] }

/-- A tower at the restart, steps 1 to 3 of R144: DARK, the drives restarted and every key surveyed (R141), accumulators
and loop counters 0. -/
def Tower.restarted (tw : Tower) : Tower :=
  ({ tw with
      state := .dark
      keys := tw.keys.map fun key : KeyRec => { key with drive := Drive.unknown, acc := 0 }
      queue := []
      moving := 0
      lastSweep := none
      counters := LoopCounters.zero
      port := tw.port.restarted }).surveyAll tw.allKeys

/-- A master port at the restart: context and cursor at their power-on values, framer and reply kept (R144 step 5, R145). -/
def MasterPortRec.restarted (z : Nat) (r : MasterPortRec) : MasterPortRec :=
  { r with ctx := WriteContext.initial z, cursor := Cursor.initial }

/-- Steps 1 to 5 of the restart (R144). -/
def State.restartBlocks (s : State) : State :=
  let z := (s.tower 0).z
  { s.mapTowers Tower.restarted with
    faults := { records := [], full := false }
    masters := {
      console := s.masters.console.restarted z
      plate := s.masters.plate.restarted z
      scanner := s.masters.scanner.restarted z }
    restartPending := false }

/-- The restart, taken as one event: steps 1 to 5, then the refresh of every tower in ascending order (R144, R74). -/
def State.restart (s : State) : State := (List.finRange 12).foldl State.refreshTower s.restartBlocks

/-- A port's reply has been sent: it is no longer busy and its framer is in HUNT (R148). -/
def State.release (s : State) (p : MasterPort) : State :=
  s.setPort p { s.port p with framer := Framer.hunting, reply := none }

/-- RESTART_TAKES_EFFECT: the last character of the RESTART reply has been sent on the console link (R144). Where no
RESTART reply is being sent the event does not occur, and nothing changes (log entry 3). -/
def execRestartTakesEffect (s : State) : Host.Outcome State Fault Refusal :=
  if s.restartPending then .next (s.release .console).restart else .next s

/-- REPLY_SENT: the last character of a port's reply has been sent (R148). The last character of the RESTART reply is also
the moment at which the restart takes effect (R144, log entry 3). A port that sends no reply is left as it is. -/
def execReplySent (p : MasterPort) (s : State) : Host.Outcome State Fault Refusal :=
  if s.busy p then
    if p = .console ∧ s.restartPending then .next (s.release p).restart else .next (s.release p)
  else .next s

end Sys2Proof.Machine
end

