-- ==== Sys2Proof/Machine/Reports.lean ====
section
/-! DEFINITION. Reports of the drive modules and the expiries of a key's timers: DONE (R131, R134, R135), FAULT (R132, R136),
POS (R137), move timer (R133), ask timer (R139); and CLEAR KEY FAULT (R140). -/

namespace Sys2Proof.Machine

/-- A DONE for a MOVING key (R131): `position` is where the motor stopped, `target` what its MOVE carried. -/
def State.moveDone (s : State) (t : TowerIx) (k position target : Nat) : State :=
  let tw := s.tower t
  let settle := sheetPlus s.sheets tw.config.drive.settleSheets
  let ended := fun (d : Drive) => (tw.endMove k d).updateKey k fun key => { key with settleUntil := settle }
  if tw.config.drive.tolerance < stepDistance position target then
    (s.setTower t (ended (.faulted .short (some position))).afterMove).logFault .short (.key t k)
  else s.setTower t ((ended (.idle position)).requeue k).afterMove

/-- A POS for key k (R137), and a DONE that answers the survey or finds the key standing (R135). -/
def State.takePos (s : State) (t : TowerIx) (k position : Nat) : State :=
  let tw := s.tower t
  match tw.keys[k]? with
  | some key =>
    match key.drive with
    | .unknown => s.setTower t (tw.standsAt k position)
    | .idle _ => s.setTower t (tw.standsAt k position)
    | .queued _ => s.setTower t (tw.queuedAt k position)
    | .moving _ target timeout => s.setTower t (tw.setDrive k (.moving position target timeout))
    | .faulted kind _ => s.setTower t (tw.setDrive k (.faulted kind (some position)))
  | none => s

/-- A DONE for key k, by its drive state (R131, R134, R135); a key the tower does not have is passed over (R2). -/
def State.takeDone (s : State) (t : TowerIx) (k position : Nat) : State :=
  let tw := s.tower t
  match tw.keys[k]? with
  | some key =>
    match key.drive with
    | .moving _ target _ => s.moveDone t k position target
    | .unknown => s.setTower t (tw.standsAt k position)
    | .idle _ => s.setTower t (tw.standsAt k position)
    | .queued _ => s.setTower t (tw.queuedAt k position)
    | .faulted kind _ =>
      let s' := s.setTower t (tw.setDrive k (.faulted kind (some position)))
      if kind = .timeout then s'.logFault .late (.key t k) else s'
  | none => s

/-- A FAULT for key k, by its drive state (R132, R136); a key the tower does not have is passed over (R2). -/
def State.takeFault (s : State) (t : TowerIx) (k : Nat) (kind : KeyFault) (position : Nat) : State :=
  let tw := s.tower t
  let d := Drive.faulted kind (some position)
  match tw.keys[k]? with
  | some key =>
    match key.drive with
    | .moving _ _ _ => (s.setTower t (tw.endMove k d).afterMove).logFault kind.kind (.key t k)
    | .queued _ => (s.setTower t ((tw.dequeue k).setDrive k d).drainCheck).logFault kind.kind (.key t k)
    | .unknown => (s.setTower t (tw.setDrive k d)).logFault kind.kind (.key t k)
    | .idle _ => (s.setTower t (tw.setDrive k d)).logFault kind.kind (.key t k)
    | .faulted _ _ => (s.setTower t (tw.setDrive k d)).logFault kind.kind (.key t k)
  | none => s

/-- A report that has passed the checks of its frame, on drive port t (R130). -/
def State.takeReport (s : State) (t : TowerIx) : Report → State
  | .done key position => s.takeDone t key.toNat position.toNat
  | .fault key kind position => s.takeFault t key.toNat (reportedKind kind) position.toNat
  | .pos key position => s.takePos t key.toNat position.toNat

/-- The receive framer of drive port t returns to HUNT (R143). -/
def State.huntDrive (s : State) (t : TowerIx) : State := s.setTower t ((s.tower t).setFramer Framer.hunting)

/-- DONE: its frame ends, and the report is taken (R131, R143). -/
def execDone (t : TowerIx) (key : Byte) (position : BitVec 16) (s : State) : Host.Outcome State Fault Refusal :=
  .next ((s.huntDrive t).takeReport t (.done key position))

/-- FAULT: its frame ends, and the report is taken (R132, R143). -/
def execFault (t : TowerIx) (key : Byte) (kind : ReportKind) (position : BitVec 16) (s : State) :
    Host.Outcome State Fault Refusal :=
  .next ((s.huntDrive t).takeReport t (.fault key kind position))

/-- POS: its frame ends, and the report is taken (R137, R143). -/
def execPos (t : TowerIx) (key : Byte) (position : BitVec 16) (s : State) : Host.Outcome State Fault Refusal :=
  .next ((s.huntDrive t).takeReport t (.pos key position))

/-- MOVE_TIMER_EXPIRY (R133). A timer that is not running does not expire: the key is then left as it is (log entry 4). -/
def execMoveTimerExpiry (t : TowerIx) (k : Nat) (s : State) : Host.Outcome State Fault Refusal :=
  let tw := s.tower t
  match tw.keys[k]? with
  | some key =>
    match key.drive with
    | .moving position _ _ =>
      .next ((s.setTower t (tw.endMove k (.faulted .timeout (some position))).afterMove).logFault .timeout (.key t k))
    | .unknown => .next s
    | .idle _ => .next s
    | .queued _ => .next s
    | .faulted _ _ => .next s
  | none => .next s

/-- ASK_TIMER_EXPIRY (R139). A timer that is not running does not expire: the key is then left as it is (log entry 4). -/
def execAskTimerExpiry (t : TowerIx) (k : Nat) (s : State) : Host.Outcome State Fault Refusal :=
  let tw := s.tower t
  match tw.keys[k]? with
  | some key =>
    match key.drive with
    | .unknown => .next ((s.setTower t (tw.setDrive k (.faulted .noAnswer none))).logFault .noAnswer (.key t k))
    | .idle _ => .next s
    | .queued _ => .next s
    | .moving _ _ _ => .next s
    | .faulted _ _ => .next s
  | none => .next s

/-- Key k is FAULTED. -/
def Tower.isFaulted (tw : Tower) (k : Nat) : Bool :=
  match tw.keys[k]? with
  | some key => key.drive.state == .faulted
  | none => false

/-- The keys that a key field of CLEAR KEY FAULT names: 0xFF all, else one below Z (R140); none is out of range. -/
def Tower.namedKeys (tw : Tower) (b : Byte) : Option (List Nat) :=
  if b = 0xFF#8 then some tw.allKeys else if b.toNat < tw.z then some [b.toNat] else none

/-- Steps 6 to 8 of CLEAR KEY FAULT: the named keys that are FAULTED enter the survey in ascending order (R140). -/
def takeClearKeyFault (_p : MasterPort) (args : List Byte) (s : State) : Taken :=
  match args with
  | [b, k] =>
    match readTower b with
    | some t =>
      let tw := s.tower t
      match tw.namedKeys k with
      | some named =>
        let ks := named.filter tw.isFaulted
        .ok (s.setTower t (tw.surveyAll ks), .ok, [byteOf ks.length])
      | none => .error .range
    | none => .error .range
  | _ => .error .length

/-- CLEAR KEY FAULT (R140). -/
def execClearKeyFault (p : MasterPort) (args : List Byte) (s : State) : Host.Outcome State Fault Refusal :=
  .next (s.takeRequest p .clearKeyFault args takeClearKeyFault)

end Sys2Proof.Machine
end

