-- ==== Sys2Proof/Machine/Sequencing.lean ====
section
/-! DEFINITION. The Tower Sequencer: ENGAGE (R107, R108), DISENGAGE (R110), JOB CHANGE (R112, R113), HOLD (R115),
RELEASE (R116, R117). -/

namespace Sys2Proof.Machine

/-- Some key of the tower is UNKNOWN: a DARK tower is not ready (R107, R112). -/
def Tower.hasUnknown (tw : Tower) : Bool := tw.keys.any fun key => key.drive.state == .unknown

/-- Where a settle window opened now ends (R94). -/
def Tower.windowEnd (tw : Tower) (sheets : Sheet) : Sheet := sheetPlus sheets tw.config.drive.settleSheets

/-- A request that names a tower alone: steps 6 to 8 from what the tower's rule makes of it (R106). -/
def takeTowerOnly (args : List Byte) (rule : TowerIx → Taken) : Taken :=
  match args with
  | [b] =>
    match readTower b with
    | some t => rule t
    | none => .error .range
  | _ => .error .length

/-! ### ENGAGE -/

/-- An accepted ENGAGE, in the order of R108. -/
def Tower.engage (tw : Tower) (sheets : Sheet) : Tower :=
  let tw1 := ({ tw with state := .presetting, counters := LoopCounters.zero }.settleAll (tw.windowEnd sheets)).sweepCheck
  ((tw1.enqueueAway tw1.allKeys).dispatch).drainCheck

/-- Steps 6 to 8 of ENGAGE (R107). -/
def takeEngage (_p : MasterPort) (args : List Byte) (s : State) : Taken :=
  takeTowerOnly args fun t =>
    let tw := s.tower t
    if tw.state ≠ .dark then .ok (s, .ok, [])
    else if !tw.run.complete then .error .incomplete
    else if tw.hasUnknown then .error .notReady
    else .ok (s.setTower t (tw.engage s.sheets), .ok, [])

/-- ENGAGE (R107, R108). -/
def execEngage (p : MasterPort) (args : List Byte) (s : State) : Host.Outcome State Fault Refusal :=
  .next (s.takeRequest p .engage args takeEngage)

/-! ### DISENGAGE -/

/-- A DISENGAGE, in the order of R110: DARK, the queue emptied into IDLE keys, the last sweep sent absent. -/
def Tower.disengage (tw : Tower) : Tower :=
  { tw.queue.foldl (fun tw k => tw.dequeue k) { tw with state := .dark } with queue := [], lastSweep := none }

/-- Steps 6 to 8 of DISENGAGE (R110). -/
def takeDisengage (_p : MasterPort) (args : List Byte) (s : State) : Taken :=
  takeTowerOnly args fun t => .ok (s.setTower t (s.tower t).disengage, .ok, [])

/-- DISENGAGE (R110). -/
def execDisengage (p : MasterPort) (args : List Byte) (s : State) : Host.Outcome State Fault Refusal :=
  .next (s.takeRequest p .disengage args takeDisengage)

/-! ### JOB CHANGE -/

/-- Steps 1 to 6 of an accepted JOB CHANGE, which hand nothing to any block (R113). -/
def Tower.changeJob (tw : Tower) (keep : Bool) (sheets : Sheet) : Tower :=
  { tw.movePlate with
    keys := tw.keys.map fun key =>
      { key with
        trim := if keep then key.trim else 0
        acc := 0
        settleUntil := tw.windowEnd sheets }
    counters := LoopCounters.zero
    state := if tw.state = .held then .held else .presetting }

/-- Steps 8 to 10 of an accepted JOB CHANGE: the keys standing away are queued, each with the dispatch check of an append
(R127), then the sweep check and the drain check of a PRESETTING tower (R113). -/
def Tower.finishJobChange (tw : Tower) : Tower :=
  let tw' := tw.allKeys.foldl Tower.seekTarget tw
  if tw'.state = .presetting then tw'.sweepCheck.drainCheck else tw'

/-- An accepted JOB CHANGE, in the order of R113. -/
def State.jobChange (s : State) (t : TowerIx) (keep : Bool) : State :=
  let s' := (s.setTower t ((s.tower t).changeJob keep s.sheets)).refreshTower t
  s'.setTower t (s'.tower t).finishJobChange

/-- Steps 6 to 8 of JOB CHANGE (R112). -/
def takeJobChange (_p : MasterPort) (args : List Byte) (s : State) : Taken :=
  match args with
  | [b, f] =>
    match readTower b, readFlag f with
    | some t, some keep =>
      let tw := s.tower t
      if tw.state = .presetting then .error .busy
      else if !tw.next.complete then .error .incomplete
      else if tw.state = .dark ∧ tw.hasUnknown then .error .notReady
      else .ok (s.jobChange t keep, .ok, [])
    | _, _ => .error .range
  | _ => .error .length

/-- JOB CHANGE (R112, R113). -/
def execJobChange (p : MasterPort) (args : List Byte) (s : State) : Host.Outcome State Fault Refusal :=
  .next (s.takeRequest p .jobChange args takeJobChange)

/-! ### HOLD and RELEASE -/

/-- Steps 6 to 8 of HOLD (R115): the tower state and nothing else. -/
def takeHold (_p : MasterPort) (args : List Byte) (s : State) : Taken :=
  takeTowerOnly args fun t =>
    match (s.tower t).state with
    | .dark => .error .state
    | .held => .ok (s, .ok, [])
    | .presetting => .ok (s.setTower t { s.tower t with state := .held }, .ok, [])
    | .printing => .ok (s.setTower t { s.tower t with state := .held }, .ok, [])

/-- HOLD (R115). -/
def execHold (p : MasterPort) (args : List Byte) (s : State) : Host.Outcome State Fault Refusal :=
  .next (s.takeRequest p .hold args takeHold)

/-- An accepted RELEASE, in the order of R117. -/
def Tower.release (tw : Tower) : Tower :=
  let work := !tw.queue.isEmpty || decide (0 < tw.moving)
  ({ tw with state := if work then .presetting else .printing }.sweepCheck).dispatch

/-- Steps 6 to 8 of RELEASE (R116). -/
def takeRelease (_p : MasterPort) (args : List Byte) (s : State) : Taken :=
  takeTowerOnly args fun t =>
    let tw := s.tower t
    match tw.state with
    | .dark => .error .state
    | .presetting => .ok (s, .ok, [])
    | .printing => .ok (s, .ok, [])
    | .held => if tw.run.complete then .ok (s.setTower t tw.release, .ok, []) else .error .incomplete

/-- RELEASE (R116, R117). -/
def execRelease (p : MasterPort) (args : List Byte) (s : State) : Host.Outcome State Fault Refusal :=
  .next (s.takeRequest p .release args takeRelease)

end Sys2Proof.Machine
end

