-- ==== Sys2Proof/Machine/Status.lean ====
section
/-! DEFINITION. Reading requests and the collection of faults: IDENTIFY, SHEET GET, TOWER STATUS, KEY STATUS (R167 to R171),
FAULTS TAKE (R165, R177). -/

namespace Sys2Proof.Machine

/-- The values of IDENTIFY (R168, R176). -/
def identityBytes : List Byte :=
  bytes16 Config.vendorCode ++ bytes16 Config.partCode ++
    [byteOf Config.revision, byteOf Config.towers, byteOf Config.maxKeys, byteOf Config.curves, byteOf Config.maxPoints]

/-- Steps 6 to 8 of IDENTIFY (R168). -/
def takeIdentify (_p : MasterPort) (_args : List Byte) (s : State) : Taken := .ok (s, .ok, identityBytes)

/-- IDENTIFY (R168). -/
def execIdentify (p : MasterPort) (args : List Byte) (s : State) : Host.Outcome State Fault Refusal :=
  .next (s.takeRequest p .identify args takeIdentify)

/-- Steps 6 to 8 of SHEET GET (R169). -/
def takeSheetGet (_p : MasterPort) (_args : List Byte) (s : State) : Taken := .ok (s, .ok, bytes32 s.sheets)

/-- SHEET GET (R169). -/
def execSheetGet (p : MasterPort) (args : List Byte) (s : State) : Host.Outcome State Fault Refusal :=
  .next (s.takeRequest p .sheetGet args takeSheetGet)

/-- A slot in the tower status record (R170, R176). -/
def slotStatus (sl : Slot) : List Byte := [sl.state.code, flagByte sl.mirrored] ++ bytesTag sl.tag

/-- The tower status record (R170, R176). -/
def towerRecord (curves : Vector (List Point) 16) (t : TowerIx) (tw : Tower) : List Byte :=
  [byteOf t.val, tw.state.code] ++ slotStatus tw.run ++ slotStatus tw.next ++
  [byteOf tw.queue.length, byteOf tw.moving, byteOf (tw.countIn .faulted), byteOf (tw.countIn .unknown),
   byteOption tw.sweep, byteOption tw.lastSweep] ++
  bytes16 tw.counters.applied ++ bytes16 tw.counters.settleSkipped ++ bytes16 tw.counters.deadbandSkipped ++
  bytes16 tw.counters.stateSkipped ++ [flagByte (tw.curveIncompleteMark curves)]

/-- Steps 6 to 8 of TOWER STATUS (R170). -/
def takeTowerStatus (_p : MasterPort) (args : List Byte) (s : State) : Taken :=
  match args with
  | [b] =>
    match readTower b with
    | some t => .ok (s, .ok, towerRecord s.curves t (s.tower t))
    | none => .error .range
  | _ => .error .length

/-- TOWER STATUS (R170). -/
def execTowerStatus (p : MasterPort) (args : List Byte) (s : State) : Host.Outcome State Fault Refusal :=
  .next (s.takeRequest p .towerStatus args takeTowerStatus)

/-- The key record of KEY STATUS (R171, R176). -/
def keyRecordBytes (key : KeyRec) : List Byte :=
  [key.drive.state.code, byteOption (key.drive.faultKind.map fun f => f.kind.code)] ++ bytesPosition key.drive.position ++
  bytesOption16 (key.target.map Target.opening) ++ bytesOption16 key.steps ++
  [match key.target with
   | some g => g.mark.code
   | none => 0xFF#8] ++
  bytesOption16 key.effective ++ bytesSigned16 key.trim ++ bytesSigned16 key.acc ++ bytes32 key.settleUntil

/-- Steps 6 to 8 of KEY STATUS (R171). -/
def takeKeyStatus (_p : MasterPort) (args : List Byte) (s : State) : Taken :=
  match args with
  | [b, first, count] =>
    match readTower b with
    | some t =>
      if 1 ≤ count.toNat ∧ count.toNat ≤ 12 ∧ first.toNat + count.toNat ≤ (s.tower t).z then
        .ok (s, .ok, [b, first, count] ++
          (((s.tower t).keys.drop first.toNat).take count.toNat).flatMap keyRecordBytes)
      else .error .range
    | none => .error .range
  | _ => .error .length

/-- KEY STATUS (R171). -/
def execKeyStatus (p : MasterPort) (args : List Byte) (s : State) : Host.Outcome State Fault Refusal :=
  .next (s.takeRequest p .keyStatus args takeKeyStatus)

/-- The low four bits of a record's first byte: its origin (R177). -/
def originCode : Origin → Nat
  | .key t _ => t.val
  | .tower t => t.val
  | .port .console => 12
  | .port .plate => 13
  | .port .scanner => 14

/-- The key byte of a record: 0xFF for an origin with no key (R177). -/
def originKey : Origin → Byte
  | .key _ k => byteOf k
  | .tower _ => 0xFF#8
  | .port _ => 0xFF#8

/-- A fault record in the reply of FAULTS TAKE (R177). -/
def faultRecordBytes (reference : Sheet) (r : FaultRecord) : List Byte :=
  [byteOf (r.kind.code * 16 + originCode r.origin), originKey r.origin, byteOf r.count] ++
  bytes16 (sheetAge reference r.first) ++ bytes16 (sheetAge reference r.last)

/-- Steps 6 to 8 of FAULTS TAKE (R165): FULL is read, up to n records leave the head, and FULL is cleared if any left. -/
def takeFaultsTake (_p : MasterPort) (args : List Byte) (s : State) : Taken :=
  match args with
  | [n] =>
    if 1 ≤ n.toNat ∧ n.toNat ≤ 32 then
      let taken := s.faults.records.take n.toNat
      let left := s.faults.records.drop n.toNat
      .ok ({ s with faults := { records := left, full := if taken.isEmpty then s.faults.full else false } }, .ok,
        [flagByte s.faults.full, byteOf taken.length, byteOf left.length] ++ bytes32 s.sheets ++
          taken.flatMap (faultRecordBytes s.sheets))
    else .error .range
  | _ => .error .length

/-- FAULTS TAKE (R165). -/
def execFaultsTake (p : MasterPort) (args : List Byte) (s : State) : Host.Outcome State Fault Refusal :=
  .next (s.takeRequest p .faultsTake args takeFaultsTake)

end Sys2Proof.Machine
end

