-- ==== Sys2Proof/Machine/Trims.lean ====
section
/-! DEFINITION. Operator trims: TRIM SET (R79 to R81) and TRIM NUDGE (R82 to R84). -/

namespace Sys2Proof.Machine

/-- A key's trim, 0 for a key the tower does not have. -/
def State.trimOf (s : State) (t : TowerIx) (k : Nat) : Int :=
  match (s.tower t).keys[k]? with
  | some key => key.trim
  | none => 0

/-- A key's trim becomes a value; a change refreshes the key alone (R78, R80, R84). -/
def State.putTrim (s : State) (t : TowerIx) (k : Nat) (v : Int) : State :=
  if v = s.trimOf t k then s
  else (s.setTower t ((s.tower t).updateKey k fun key => { key with trim := v })).refreshKey t k

/-- The entries of a trim request taken in order: the state left, whether an entry was clamped, and each entry's trim just
after it was taken (R80, R81, R84). `wanted` gives the value before its clamp from the trim as it stands. -/
def State.putTrims (t : TowerIx) (wanted : Int → Int → Int) : List (Nat × Int) → State → State × Bool × List Int
  | [], s => (s, false, [])
  | (k, x) :: rest, s =>
    let w := wanted (s.trimOf t k) x
    let v := clamp (-300) 300 w
    let out := State.putTrims t wanted rest (s.putTrim t k v)
    (out.1, decide (v ≠ w) || out.2.1, v :: out.2.2)

/-- What a trim request's entries make of a tower whose keys they all name (R79, R81, R82). -/
def State.takeTrims (s : State) (b : Byte) (entries : List (Nat × Int)) (wanted : Int → Int → Int) : Taken :=
  match readTower b with
  | some t =>
    if entries.all fun e => decide (e.1 < (s.tower t).z) then
      let out := State.putTrims t wanted entries s
      .ok (out.1, clampResult out.2.1, b :: out.2.2.flatMap bytesSigned16)
    else .error .range
  | none => .error .range

/-- Steps 6 to 8 of TRIM SET: each entry's value is the trim the key is to have (R80). -/
def takeTrimSet (_p : MasterPort) (args : List Byte) (s : State) : Taken :=
  match args with
  | b :: entries => s.takeTrims b (readKeyValues entries) fun _ v => v
  | [] => .error .length

/-- TRIM SET (R79). -/
def execTrimSet (p : MasterPort) (args : List Byte) (s : State) : Host.Outcome State Fault Refusal :=
  .next (s.takeRequest p .trimSet args takeTrimSet)

/-- Steps 6 to 8 of TRIM NUDGE: each entry's count is added to the key's trim (R84). -/
def takeTrimNudge (_p : MasterPort) (args : List Byte) (s : State) : Taken :=
  match args with
  | b :: entries => s.takeTrims b (readKeyCounts entries) fun trim count => trim + count
  | [] => .error .length

/-- TRIM NUDGE (R82). -/
def execTrimNudge (p : MasterPort) (args : List Byte) (s : State) : Host.Outcome State Fault Refusal :=
  .next (s.takeRequest p .trimNudge args takeTrimNudge)

end Sys2Proof.Machine
end

