-- ==== Sys2Proof/Machine/Links.lean ====
section
/-! DEFINITION. The lines: the receive framer shared by master links and drive ports (R147, R143), characters, bad frames
(R148, R150, R143), abandoned frames, unknown functions (R152), and messages sent (R129). -/

namespace Sys2Proof.Machine

/-! ### The receive framer -/

/-- What a character makes of a framer: it moves on, the frame ends at a bad length, or the frame ends in CHECK, good when
its marker is clear and its sum is zero. -/
inductive FrameEvent where
  | moved (f : Framer)
  | badLength
  | ended (good : Bool) (body : List Byte)
  deriving DecidableEq, Repr

/-- A framer with the marker set by a character of bad parity and its timer restarted (R147). -/
def Framer.marked (f : Framer) (ch : Character) : Framer :=
  { f with marker := f.marker || !goodParity ch, timer := true }

/-- A character taken by a receive framer (R147, R143). -/
def Framer.take (f : Framer) (ch : Character) : FrameEvent :=
  match f.phase with
  | .hunt =>
    if ch.data = Config.syncCharacter ∧ goodParity ch then
      .moved { phase := .length, marker := false, timer := true, len := 0, body := [] }
    else .moved f
  | .length =>
    if 1 ≤ ch.data.toNat ∧ ch.data.toNat ≤ Config.maxFrameLength then
      .moved { f.marked ch with phase := .body, len := ch.data.toNat }
    else .badLength
  | .body =>
    let body := f.body ++ [ch.data]
    .moved { f.marked ch with body := body, phase := if body.length < f.len then .body else .check }
  | .check => .ended (!(f.marked ch).marker && frameSum f.len f.body ch.data == 0#8) f.body

/-! ### What is sent on a line -/

/-- A character of good parity (R147). -/
def goodCharacter (b : Byte) : Character :=
  { data := b, parity := (List.range 8).countP (fun i => b.getLsbD i) % 2 == 0 }

/-- The check byte that brings the sum of a frame of this body to zero (R147). -/
def checkByte (body : List Byte) : Byte := 0#8 - frameSum body.length body 0#8

/-- The characters of a frame that carries a body: synchronising character, LEN, body, check byte (R147, R149). A reply of a
master port and a message of a drive port leave the part in this form. -/
def frameCharacters (body : List Byte) : List Character :=
  (Config.syncCharacter :: byteOf body.length :: (body ++ [checkByte body])).map goodCharacter

/-- The body of a message on a drive port (R178). -/
def DriveMessage.body : DriveMessage → List Byte
  | .move key steps => 0x50#8 :: byteOf key :: bytes16 steps
  | .ask key => [0x51#8, byteOf key]
  | .sweep percent => [0x52#8, byteOf percent]

/-- The characters a master port is sending, none when it is not busy (R149). -/
def MasterPortRec.line (r : MasterPortRec) : List Character :=
  match r.reply with
  | some body => frameCharacters body
  | none => []

/-- The characters a drive port is sending, none when it sends no message (R129, R178). -/
def DrivePort.line (d : DrivePort) : List Character :=
  match d.sending with
  | some m => frameCharacters m.body
  | none => []

/-! ### Master links -/

/-- What the functions make of a request at steps 6 to 8. -/
def takeFunction : MasterFn → MasterPort → List Byte → State → Taken
  | .identify => takeIdentify
  | .sheetGet => takeSheetGet
  | .towerStatus => takeTowerStatus
  | .keyStatus => takeKeyStatus
  | .configGet => takeConfigGet
  | .faultsTake => takeFaultsTake
  | .windowSet => takeWindowSet
  | .writeModeSet => takeWriteModeSet
  | .zonesWrite => takeZonesWrite
  | .zonesFill => takeZonesFill
  | .zonesRead => takeZonesRead
  | .zonesAbove => takeZonesAbove
  | .slotClear => takeSlotClear
  | .slotTagSet => takeSlotTagSet
  | .curveSelect => takeCurveSelect
  | .curvePut => takeCurvePut
  | .curveGet => takeCurveGet
  | .curveClear => takeCurveClear
  | .measure => takeMeasure
  | .configSet => takeConfigSet
  | .engage => takeEngage
  | .disengage => takeDisengage
  | .jobChange => takeJobChange
  | .hold => takeHold
  | .release => takeRelease
  | .trimSet => takeTrimSet
  | .trimNudge => takeTrimNudge
  | .clearKeyFault => takeClearKeyFault
  | .accessSet => takeAccessSet
  | .restart => takeRestart

/-- A good frame on a master port (R151 from step 2): the function its first body byte names is requested, and a code that
names none is refused with UNKNOWN (R152). -/
def State.takeFrame (s : State) (p : MasterPort) (code : Byte) (args : List Byte) : State :=
  match MasterFn.ofCode code with
  | some fn => s.takeRequest p fn args (takeFunction fn)
  | none => if s.busy p then s else s.sendReply p [replyByte code, Result.unknown.code]

/-- A bad frame on a master port: a LINK_FRAME fault of the port is logged and the frame answered with FRAME (R148, R150);
the function byte of the reply is 0x80 where no body byte was received. Nothing reaches a busy port. -/
def State.takeBadFrame (s : State) (p : MasterPort) (first : Option Byte) : State :=
  if s.busy p then s
  else (s.logFault .linkFrame (.port p)).sendReply p [replyByte (first.getD 0#8), Result.frame.code]

/-- UNKNOWN_FUNCTION: a good frame whose code names no master function (R152). -/
def execUnknownFunction (p : MasterPort) (code : Byte) (args : List Byte) (s : State) :
    Host.Outcome State Fault Refusal :=
  .next (s.takeFrame p code args)

/-- MASTER_BAD_FRAME (R148, R150). -/
def execMasterBadFrame (p : MasterPort) (first : Option Byte) (s : State) : Host.Outcome State Fault Refusal :=
  .next (s.takeBadFrame p first)

/-- MASTER_FRAME_ABANDON: the timer of a frame in reception expires, silently (R147). A timer that is not running does not
expire. -/
def execMasterFrameAbandon (p : MasterPort) (s : State) : Host.Outcome State Fault Refusal :=
  if (s.port p).framer.timer then .next (s.setFramer p Framer.hunting) else .next s

/-- MASTER_LINK_CHARACTER: a character reaches the framer of a port that is not busy, and is lost on one that is; the
character that ends a frame has the frame taken (R147, R148). -/
def execMasterLinkCharacter (p : MasterPort) (ch : Character) (s : State) : Host.Outcome State Fault Refusal :=
  if s.busy p then .next s
  else
    match (s.port p).framer.take ch with
    | .moved f => .next (s.setFramer p f)
    | .badLength => .next ((s.setFramer p Framer.hunting).takeBadFrame p none)
    | .ended good body =>
      match good, body with
      | true, code :: args => .next ((s.setFramer p Framer.hunting).takeFrame p code args)
      | _, _ => .next ((s.setFramer p Framer.hunting).takeBadFrame p body.head?)

/-! ### Drive ports -/

/-- A bad frame on drive port t is discarded and a LINK_FRAME fault of the tower logged; the framer returns to HUNT
(R143). -/
def State.badDriveFrame (s : State) (t : TowerIx) : State := (s.huntDrive t).logFault .linkFrame (.tower t)

/-- DRIVE_PORT_BAD_FRAME (R143). -/
def execDrivePortBadFrame (t : TowerIx) (s : State) : Host.Outcome State Fault Refusal := .next (s.badDriveFrame t)

/-- DRIVE_FRAME_ABANDON: the timer of a frame in reception expires, silently (R143). -/
def execDriveFrameAbandon (t : TowerIx) (s : State) : Host.Outcome State Fault Refusal :=
  if (s.tower t).port.framer.timer then .next (s.huntDrive t) else .next s

/-- DRIVE_PORT_CHARACTER: a character reaches the framer of the drive port; the one that ends a frame has it checked and,
where it is good, its report taken (R143, R130). -/
def execDrivePortCharacter (t : TowerIx) (ch : Character) (s : State) : Host.Outcome State Fault Refusal :=
  match (s.tower t).port.framer.take ch with
  | .moved f => .next (s.setTower t ((s.tower t).setFramer f))
  | .badLength => .next (s.badDriveFrame t)
  | .ended good body =>
    match good, decodeReport body with
    | true, some r => .next ((s.huntDrive t).takeReport t r)
    | _, _ => .next (s.badDriveFrame t)

/-- DRIVE_PORT_MESSAGE_SENT: the next message made for the port begins (R129). -/
def execDrivePortMessageSent (t : TowerIx) (s : State) : Host.Outcome State Fault Refusal :=
  .next (s.setTower t { s.tower t with port := (s.tower t).port.sent })

end Sys2Proof.Machine
end

