-- ==== Sys2Proof/Machine/Dispatch.lean ====
section
/-! DEFINITION. One arm for each command: its meaning, a definition of its own. -/

namespace Sys2Proof.Machine

def exec (i : Instr) (s : State) : Host.Outcome State Fault Refusal :=
  match i with
  | .powerOn => Sys2Proof.Machine.execPowerOn s
  | .sheetPulse => Sys2Proof.Machine.execSheetPulse s
  | .identify port args => Sys2Proof.Machine.execIdentify port args s
  | .sheetGet port args => Sys2Proof.Machine.execSheetGet port args s
  | .towerStatus port args => Sys2Proof.Machine.execTowerStatus port args s
  | .keyStatus port args => Sys2Proof.Machine.execKeyStatus port args s
  | .configGet port args => Sys2Proof.Machine.execConfigGet port args s
  | .faultsTake port args => Sys2Proof.Machine.execFaultsTake port args s
  | .windowSet port args => Sys2Proof.Machine.execWindowSet port args s
  | .writeModeSet port args => Sys2Proof.Machine.execWriteModeSet port args s
  | .zonesWrite port args => Sys2Proof.Machine.execZonesWrite port args s
  | .zonesFill port args => Sys2Proof.Machine.execZonesFill port args s
  | .zonesRead port args => Sys2Proof.Machine.execZonesRead port args s
  | .zonesAbove port args => Sys2Proof.Machine.execZonesAbove port args s
  | .slotClear port args => Sys2Proof.Machine.execSlotClear port args s
  | .slotTagSet port args => Sys2Proof.Machine.execSlotTagSet port args s
  | .curveSelect port args => Sys2Proof.Machine.execCurveSelect port args s
  | .curvePut port args => Sys2Proof.Machine.execCurvePut port args s
  | .curveGet port args => Sys2Proof.Machine.execCurveGet port args s
  | .curveClear port args => Sys2Proof.Machine.execCurveClear port args s
  | .measure port args => Sys2Proof.Machine.execMeasure port args s
  | .configSet port args => Sys2Proof.Machine.execConfigSet port args s
  | .engage port args => Sys2Proof.Machine.execEngage port args s
  | .disengage port args => Sys2Proof.Machine.execDisengage port args s
  | .jobChange port args => Sys2Proof.Machine.execJobChange port args s
  | .hold port args => Sys2Proof.Machine.execHold port args s
  | .release port args => Sys2Proof.Machine.execRelease port args s
  | .trimSet port args => Sys2Proof.Machine.execTrimSet port args s
  | .trimNudge port args => Sys2Proof.Machine.execTrimNudge port args s
  | .clearKeyFault port args => Sys2Proof.Machine.execClearKeyFault port args s
  | .accessSet port args => Sys2Proof.Machine.execAccessSet port args s
  | .restart port args => Sys2Proof.Machine.execRestart port args s
  | .restartTakesEffect => Sys2Proof.Machine.execRestartTakesEffect s
  | .unknownFunction port code args => Sys2Proof.Machine.execUnknownFunction port code args s
  | .masterBadFrame port first => Sys2Proof.Machine.execMasterBadFrame port first s
  | .masterFrameAbandon port => Sys2Proof.Machine.execMasterFrameAbandon port s
  | .done tower key position => Sys2Proof.Machine.execDone tower key position s
  | .fault tower key kind position => Sys2Proof.Machine.execFault tower key kind position s
  | .pos tower key position => Sys2Proof.Machine.execPos tower key position s
  | .drivePortBadFrame tower => Sys2Proof.Machine.execDrivePortBadFrame tower s
  | .driveFrameAbandon tower => Sys2Proof.Machine.execDriveFrameAbandon tower s
  | .moveTimerExpiry tower key => Sys2Proof.Machine.execMoveTimerExpiry tower key s
  | .askTimerExpiry tower key => Sys2Proof.Machine.execAskTimerExpiry tower key s
  | .masterLinkCharacter port ch => Sys2Proof.Machine.execMasterLinkCharacter port ch s
  | .drivePortCharacter tower ch => Sys2Proof.Machine.execDrivePortCharacter tower ch s
  | .replySent port => Sys2Proof.Machine.execReplySent port s
  | .drivePortMessageSent tower => Sys2Proof.Machine.execDrivePortMessageSent tower s

end Sys2Proof.Machine
end

