-- ==== Sys2Proof/Safety.lean ====
section
/-! DEFINITION. What counts as a sound state of the KM12: the invariants the rules state, each as a predicate of the state,
and the frames the statements speak in. Nothing here is read by the machine. -/

namespace Sys2Proof.Machine

/-! ### Invariants -/

/-- Every field of a configuration record lies in its range (R6). -/
def TowerConfig.Sound (c : TowerConfig) : Prop :=
  c.inRange = true ∧ 50 ≤ c.metering.scale ∧ c.metering.scale ≤ 150

/-- A slot has one zone for each of z keys, and every stored coverage lies within 0..1000 (R3, R18). -/
def Slot.Sound (sl : Slot) (z : Nat) : Prop := sl.coverage.length = z ∧ ∀ c ∈ sl.coverage, ∀ v ∈ c, v ≤ 1000

/-- A tower's record is in range, it has exactly Z key records (R2), and both slots hold Z zones (R3, R18). -/
def Tower.ShapeSound (tw : Tower) : Prop :=
  tw.config.Sound ∧ tw.keys.length = tw.z ∧ tw.run.Sound tw.z ∧ tw.next.Sound tw.z

/-- A write context's window lies inside its tower, and its pointer, where it has one, inside its window (R23). -/
def WriteContext.Sound (c : WriteContext) (z : Nat) : Prop :=
  c.first ≤ c.last ∧ c.last < z ∧ ∀ q ∈ c.pointer, c.first ≤ q ∧ q ≤ c.last

/-- Geometry: every tower's shape and every port's write context are sound (R2, R3, R6, R18, R23). -/
def State.GeometrySound (s : State) : Prop :=
  (∀ t : TowerIx, (s.tower t).ShapeSound) ∧
    ∀ p : MasterPort, (s.port p).ctx.Sound (s.tower (s.port p).ctx.tower).z

/-- A curve holds at most 12 points in strictly ascending coverage, coverages and openings within 0..1000 (R40). -/
def CurveSound (points : List Point) : Prop :=
  points.length ≤ 12 ∧ points.Pairwise (fun q r => q.coverage < r.coverage) ∧
    ∀ q ∈ points, q.coverage ≤ 1000 ∧ q.opening ≤ 1000

/-- A cursor's index lies within 0..12 and a held coverage word within 0..1000 (R42). -/
def Cursor.Sound (c : Cursor) : Prop :=
  c.index ≤ 12 ∧
    match c.phase with
    | .even => True
    | .half held => held ≤ 1000

/-- Every curve and every cursor is sound (R40, R42). -/
def State.CurvesSound (s : State) : Prop :=
  (∀ c : CurveIx, CurveSound (s.curve c)) ∧ ∀ p : MasterPort, (s.port p).cursor.Sound

/-- The Fault List holds at most 32 records, no two of the same kind and origin, each with a repeat count 1..255 (R161). -/
def FaultList.Sound (l : FaultList) : Prop :=
  l.records.length ≤ 32 ∧ l.records.Pairwise (fun a b => ¬(a.kind = b.kind ∧ a.origin = b.origin)) ∧
    ∀ r ∈ l.records, 1 ≤ r.count ∧ r.count ≤ 255

/-- Trims lie within -300..+300 (R77) and loop accumulators within -200..+200 (R95). -/
def KeyRec.CorrectionsSound (key : KeyRec) : Prop :=
  -300 ≤ key.trim ∧ key.trim ≤ 300 ∧ -200 ≤ key.acc ∧ key.acc ≤ 200

/-- Each loop counter lies within 0..65535 (R104). -/
def LoopCounters.Sound (c : LoopCounters) : Prop :=
  c.applied ≤ 65535 ∧ c.settleSkipped ≤ 65535 ∧ c.deadbandSkipped ≤ 65535 ∧ c.stateSkipped ≤ 65535

/-- The numbers of a tower lie in their ranges: counters (R104), sweeps 5..100 (R68, R142), trims and accumulators (R77, R95),
positions 0..65535 (R123), effective coverages 0..1000 (R59). -/
def Tower.RangesSound (tw : Tower) : Prop :=
  tw.counters.Sound ∧ (∀ v ∈ tw.sweep, 5 ≤ v ∧ v ≤ 100) ∧ (∀ v ∈ tw.lastSweep, 5 ≤ v ∧ v ≤ 100) ∧
    ∀ key ∈ tw.keys, key.CorrectionsSound ∧ (∀ q ∈ key.drive.position, q ≤ 65535) ∧ ∀ e ∈ key.effective, e ≤ 1000

/-- Every tower's numbers lie in their ranges, every fault record of a key names one of 48 (R161), and the trust level lies
within 0..2 (R157). -/
def State.RangesSound (s : State) : Prop :=
  (∀ t : TowerIx, (s.tower t).RangesSound) ∧ (∀ r ∈ s.faults.records, ∀ t k, r.origin = .key t k → k < 48) ∧
    s.access.trust ≤ 2

/-- Key k of the tower is QUEUED. -/
def Tower.isQueued (tw : Tower) (k : Nat) : Bool := (tw.keys[k]?.map fun key => key.drive.state) == some .queued

/-- A QUEUED key has target steps, and they differ from its position (R127). -/
def KeyRec.QueuedSound (key : KeyRec) : Prop :=
  match key.drive with
  | .queued position => ∃ steps ∈ key.steps, steps ≠ position
  | _ => True

/-- A key is in its tower's move queue exactly when it is QUEUED, the queue holds no key twice (R124), a DARK tower's queue
is empty (R124), and a QUEUED key stands away from its target (R127). -/
def Tower.QueueSound (tw : Tower) : Prop :=
  tw.queue.Nodup ∧ (∀ k, k ∈ tw.queue ↔ tw.isQueued k = true) ∧ (tw.state = .dark → tw.queue = []) ∧
    ∀ key ∈ tw.keys, key.QueuedSound

def State.QueueSound (s : State) : Prop := ∀ t : TowerIx, (s.tower t).QueueSound

/-- A tower's moving count is the number of its MOVING keys and never exceeds its concurrency limit (R125). -/
def Tower.MovingSound (tw : Tower) : Prop :=
  tw.moving = tw.countIn .moving ∧ tw.moving ≤ tw.config.drive.concurrency

def State.MovingSound (s : State) : Prop := ∀ t : TowerIx, (s.tower t).MovingSound

/-- A PRESETTING or PRINTING tower with a key waiting has every motor slot taken: its moving count is its concurrency limit
(R127). -/
def Tower.DispatchSound (tw : Tower) : Prop :=
  tw.running = true → tw.queue ≠ [] → tw.moving = tw.config.drive.concurrency

def State.DispatchSound (s : State) : Prop := ∀ t : TowerIx, (s.tower t).DispatchSound

/-- A PRESETTING tower has a key waiting or moving: one that has neither has drained and is PRINTING (R118). -/
def Tower.PresettingSound (tw : Tower) : Prop := tw.state = .presetting → tw.queue ≠ [] ∨ 0 < tw.moving

def State.PresettingSound (s : State) : Prop := ∀ t : TowerIx, (s.tower t).PresettingSound

/-- A key's target, where it has one, lies within the tower's opening limits, and its steps are those of its opening, within
0..F (R55, R67). -/
def Tower.TargetsSound (tw : Tower) : Prop :=
  ∀ key ∈ tw.keys, ∀ g ∈ key.target,
    tw.config.metering.minOpen ≤ g.opening ∧ g.opening ≤ tw.config.metering.maxOpen ∧
      g.steps = motorSteps tw.config.geometry.f g.opening ∧ g.steps ≤ tw.config.geometry.f

/-- Every tower's configuration record is in range and its targets are sound (R6, R55). -/
def State.TargetsSound (s : State) : Prop := ∀ t : TowerIx, (s.tower t).config.Sound ∧ (s.tower t).TargetsSound

/-- A PRESETTING or PRINTING tower has a COMPLETE RUN slot (R116). -/
def State.RunningSound (s : State) : Prop := ∀ t : TowerIx, (s.tower t).running = true → (s.tower t).run.complete = true

/-- A busy master port's framer is in HUNT (R148), a framer's timer runs exactly outside HUNT (R146, R147, R143), and no message
waits on a drive port that sends none (R129). -/
def State.LinksSound (s : State) : Prop :=
  (∀ p : MasterPort,
    (s.busy p = true → (s.port p).framer.phase = .hunt) ∧
      ((s.port p).framer.timer = true ↔ (s.port p).framer.phase ≠ .hunt)) ∧
  ∀ t : TowerIx,
    ((s.tower t).port.framer.timer = true ↔ (s.tower t).port.framer.phase ≠ .hunt) ∧
      ((s.tower t).port.sending = none → (s.tower t).port.waiting = [])

/-! ### Bodies of replies, read field by field (R172, R174, R175) -/

/-- The byte at offset i of a body holds this number. -/
def Field8 (body : List Byte) (i n : Nat) : Prop := ∃ b, body[i]? = some b ∧ b.toNat = n

/-- The two bytes from offset i hold this number, most significant byte first. -/
def Field16 (body : List Byte) (i n : Nat) : Prop :=
  ∃ b1 b0, body[i]? = some b1 ∧ body[i + 1]? = some b0 ∧ b1.toNat * 256 + b0.toNat = n

/-- The two bytes from offset i hold this signed number, two's complement. -/
def FieldSigned16 (body : List Byte) (i : Nat) (v : Int) : Prop :=
  ∃ b1 b0, body[i]? = some b1 ∧ body[i + 1]? = some b0 ∧
    v = if b1.toNat < 128 then (b1.toNat * 256 + b0.toNat : Int) else b1.toNat * 256 + b0.toNat - 65536

/-- The four bytes from offset i hold this 32-bit number, most significant byte first. -/
def Field32 (body : List Byte) (i : Nat) (w : BitVec 32) : Prop :=
  ∃ b3 b2 b1 b0, body[i]? = some b3 ∧ body[i + 1]? = some b2 ∧ body[i + 2]? = some b1 ∧ body[i + 3]? = some b0 ∧
    ((b3.toNat * 256 + b2.toNat) * 256 + b1.toNat) * 256 + b0.toNat = w.toNat

/-- The six bytes from offset i hold this set: member m is bit m mod 8 of byte 5 - m div 8 (R174). -/
def FieldSet (body : List Byte) (i : Nat) (member : Nat → Bool) : Prop :=
  ∀ m, m < 48 → ∃ b, body[i + (5 - m / 8)]? = some b ∧ b.getLsbD (m % 8) = member m

/-- The write context block of 13 bytes from offset i (R175). -/
def ContextFields (body : List Byte) (i : Nat) (c : WriteContext) : Prop :=
  Field8 body i c.tower.val ∧ Field8 body (i + 1) (if c.slot = .run then 0 else 1) ∧ Field8 body (i + 2) c.first ∧
    Field8 body (i + 3) c.last ∧ Field8 body (i + 4) (c.pointer.getD 255) ∧
    Field8 body (i + 5) (if c.direction = .up then 0 else 1) ∧
    Field8 body (i + 6) (match c.mode with
      | .replace => 0
      | .add => 1
      | .subtract => 2
      | .max => 3) ∧
    FieldSet body (i + 7) c.mask.getLsbD

/-- The curve cursor block of 7 bytes from offset i, for a curve of this many points (R45, R175). -/
def CursorFields (body : List Byte) (i : Nat) (c : Cursor) (count : Nat) : Prop :=
  Field8 body i c.curve.val ∧ Field8 body (i + 1) c.index ∧
    (match c.phase with
      | .even => Field8 body (i + 2) 0 ∧ Field16 body (i + 3) 0
      | .half held => Field8 body (i + 2) 1 ∧ Field16 body (i + 3) held) ∧
    Field8 body (i + 5) (match c.lastOp with
      | .none => 0
      | .read => 1
      | .write => 2) ∧
    Field8 body (i + 6) count

/-! ### What the checks of a request ask (R152 to R154) -/

/-- The functions of required rank 0 (R152). -/
def consoleFunctions : List MasterFn :=
  [.configSet, .engage, .disengage, .jobChange, .hold, .release, .trimSet, .trimNudge, .clearKeyFault, .faultsTake,
   .accessSet, .restart]

/-- The functions of required rank 1 (R152). -/
def storeFunctions : List MasterFn := [.zonesWrite, .zonesFill, .slotClear, .slotTagSet, .curvePut, .curveClear]

/-- A port's rank lets it send a function (R152). -/
def RankAllows (p : MasterPort) (fn : MasterFn) : Prop :=
  p = .console ∨ (p = .plate ∧ fn ∉ consoleFunctions) ∨ (p = .scanner ∧ fn ∉ consoleFunctions ∧ fn ∉ storeFunctions)

/-- n body bytes after the function byte are the function's layout (R153, R176). -/
def LayoutLength (fn : MasterFn) (n : Nat) : Prop :=
  match fn with
  | .identify | .sheetGet | .zonesRead | .restart => n = 0
  | .towerStatus | .configGet | .faultsTake | .curveGet | .curveClear | .engage | .disengage | .hold | .release => n = 1
  | .zonesFill | .zonesAbove | .slotClear | .curveSelect | .jobChange | .clearKeyFault => n = 2
  | .keyStatus => n = 3
  | .windowSet => n = 4
  | .slotTagSet | .accessSet => n = 7
  | .writeModeSet => n = 8
  | .configSet => n = 30
  | .zonesWrite => ∃ k, 1 ≤ k ∧ k ≤ 48 ∧ n = 2 * k
  | .curvePut => ∃ k, 1 ≤ k ∧ k ≤ 62 ∧ n = 2 * k
  | .trimSet => ∃ k, 1 ≤ k ∧ k ≤ 48 ∧ n = 1 + 3 * k
  | .trimNudge => ∃ k, 1 ≤ k ∧ k ≤ 48 ∧ n = 1 + 2 * k
  | .measure => ∃ k, 1 ≤ k ∧ k ≤ 48 ∧ n = 5 + 3 * k

/-- The access check lets a port change a member: its rank is not above the trust level, or its map lacks the member (R154). -/
def State.Permits (s : State) (p : MasterPort) (member : Nat) : Prop :=
  portRank p ≤ s.access.trust ∨ (s.access.denyMap p).getLsbD member = false

/-- Every field but scale lies in its range in the table of R6, the split against the record's own Z (R12). -/
def TowerConfig.InTable (c : TowerConfig) : Prop :=
  (16 ≤ c.geometry.z ∧ c.geometry.z ≤ 48) ∧ (200 ≤ c.geometry.f ∧ c.geometry.f ≤ 4000) ∧
    c.metering.split ≤ c.geometry.z ∧ (1 ≤ c.metering.w0 ∧ c.metering.w0 ≤ 16) ∧ c.metering.w1 ≤ 8 ∧ c.metering.w2 ≤ 4 ∧
    c.metering.minOpen ≤ 500 ∧ (500 ≤ c.metering.maxOpen ∧ c.metering.maxOpen ≤ 1000) ∧ c.metering.sweepBase ≤ 100 ∧
    c.metering.sweepGain ≤ 200 ∧ (1 ≤ c.drive.concurrency ∧ c.drive.concurrency ≤ 8) ∧ c.drive.settleSheets ≤ 255 ∧
    (200 ≤ c.drive.moveTimeout ∧ c.drive.moveTimeout ≤ 10000) ∧ c.drive.tolerance ≤ 20 ∧ c.loop.gain ≤ 1000 ∧
    c.loop.deadband ≤ 500 ∧ (1 ≤ c.loop.stepLimit ∧ c.loop.stepLimit ≤ 50)

/-! ### What the rules compute, written out -/

/-- The target of a corrected opening t: limited to the tower's openings, marked, and in motor steps (R66, R67). -/
def targetOf (c : TowerConfig) (t : Int) : Target :=
  let opening := if t < c.metering.minOpen then c.metering.minOpen else if (c.metering.maxOpen : Int) < t then
    c.metering.maxOpen else t.toNat
  { opening
    steps := (2 * opening * c.geometry.f + 1000) / 2000
    mark := if t < c.metering.minOpen then .low else if (c.metering.maxOpen : Int) < t then .high else .none }

/-- The corrected opening of a key with effective coverage e and looked-up opening o (R63, R64, R65). -/
def openingFor (m : Metering) (e o : Nat) (trim acc : Int) : Int :=
  if m.closeEmpty = true ∧ e = 0 then m.minOpen else ((2 * o * m.scale + 100) / 200 : Nat) + trim + acc

/-- The targets, effective coverages and sweep of a tower are those that the nine steps give its present inputs: with RUN
COMPLETE, every key has its effective coverage, every key of a USABLE curve its target, and the tower its sweep; else all are
absent (R56 to R68). -/
def Tower.PresetsCurrent (curves : Vector (List Point) 16) (tw : Tower) : Prop :=
  (tw.run.complete = true →
    (∀ k key, tw.keys[k]? = some key →
      let e := tw.effectiveCoverage k
      let points := curves.get (tw.curveOf k)
      key.effective = some e ∧
        (2 ≤ points.length → key.target =
          some (targetOf tw.config (openingFor tw.config.metering e (openingAt points e) key.trim key.acc)))) ∧
    tw.sweep = some tw.presetSweep) ∧
  (tw.run.complete = false → (∀ key ∈ tw.keys, key.target = none ∧ key.effective = none) ∧ tw.sweep = none)

def State.PresetsCurrent (s : State) : Prop := ∀ t : TowerIx, (s.tower t).PresetsCurrent s.curves

/-- A target held on an INCOMPLETE curve: its opening limited, marked where the limit moved it, and its steps anew (R61). -/
def heldOf (c : TowerConfig) (g : Target) : Target :=
  let opening := if g.opening < c.metering.minOpen then c.metering.minOpen else if c.metering.maxOpen < g.opening then
    c.metering.maxOpen else g.opening
  { opening
    steps := (2 * opening * c.geometry.f + 1000) / 2000
    mark := if g.opening < c.metering.minOpen then .low else if c.metering.maxOpen < g.opening then .high else g.mark }

/-- The trims after the entries of a trim request, from the trims before it: each entry's value, or its count added to the trim
as it stands, limited to -300..+300 (R80, R84). -/
def trimsAfter (add : Bool) (trim : Nat → Int) : List (Nat × Int) → Nat → Int
  | [] => trim
  | (k, x) :: rest =>
    trimsAfter add (fun j => if j = k then max (-300) (min 300 (if add then trim k + x else x)) else trim j) rest

/-- An entry of a trim request asks for a trim outside -300..+300 (R80, R84). -/
def trimClamped (add : Bool) (trim : Nat → Int) (entries : List (Nat × Int)) : Prop :=
  ∃ i k x, entries[i]? = some (k, x) ∧
    let wanted := if add then trimsAfter add trim (entries.take i) k + x else x
    wanted < -300 ∨ 300 < wanted

/-- The correction of a deviation beyond the deadband: against its sign, a thousandth of deviation times gain rounded half away
from zero, at most the step limit (R96). -/
def correctionOf (l : LoopSettings) (dev : Int) : Int :=
  let size : Int := min l.stepLimit ((2 * (dev.natAbs * l.gain) + 1000) / 2000)
  if 0 < dev then -size else size

/-- The record of CONFIG SET and CONFIG GET, field by field (R176; its order is log entry 6). -/
def ConfigFields (record : List Byte) (c : TowerConfig) : Prop :=
  let flag := fun b : Bool => if b then 1 else 0
  record.length = 29 ∧ Field8 record 0 c.geometry.z ∧ Field16 record 1 c.geometry.f ∧
    Field8 record 3 (flag c.geometry.reversed) ∧ Field8 record 4 c.metering.curveA.val ∧
    Field8 record 5 c.metering.curveB.val ∧ Field8 record 6 c.metering.split ∧ Field8 record 7 c.metering.w0 ∧
    Field8 record 8 c.metering.w1 ∧ Field8 record 9 c.metering.w2 ∧ Field8 record 10 c.metering.scale ∧
    Field16 record 11 c.metering.minOpen ∧ Field16 record 13 c.metering.maxOpen ∧
    Field8 record 15 (flag c.metering.closeEmpty) ∧ Field8 record 16 c.drive.concurrency ∧
    Field8 record 17 c.drive.settleSheets ∧ Field16 record 18 c.drive.moveTimeout ∧ Field8 record 20 c.drive.tolerance ∧
    Field8 record 21 (flag c.loop.enable) ∧ Field16 record 22 c.loop.gain ∧ Field16 record 24 c.loop.deadband ∧
    Field8 record 26 c.loop.stepLimit ∧ Field8 record 27 c.metering.sweepBase ∧ Field8 record 28 c.metering.sweepGain

/-- A record with its scale limited to 50..150 (R12). -/
def TowerConfig.taken (c : TowerConfig) : TowerConfig :=
  { c with metering := { c.metering with scale := min 150 (max 50 c.metering.scale) } }

/-- The messages made for a drive port, in order (R129). -/
def DrivePort.sendAll (d : DrivePort) (messages : List DriveMessage) : DrivePort := messages.foldl DrivePort.send d

/-- How many keys at the head of the queue a dispatch check sends: none unless the tower runs, else as many as there are free
motor slots and waiting keys (R127). -/
def Tower.slots (tw : Tower) : Nat :=
  if tw.state = .presetting ∨ tw.state = .printing then min tw.queue.length (tw.config.drive.concurrency - tw.moving) else 0

/-- A queued key after dispatch: MOVING toward its target steps with the tower's move timeout (R127). -/
def KeyRec.dispatched (timeout : Nat) (key : KeyRec) : KeyRec :=
  match key.drive, key.target with
  | .queued position, some g => { key with drive := .moving position g.steps timeout }
  | _, _ => key

/-- The tower after its dispatch check, written out (R127). -/
def Tower.afterDispatch (tw : Tower) : Tower :=
  let sent := tw.queue.take tw.slots
  { tw with
    queue := tw.queue.drop tw.slots
    moving := tw.moving + tw.slots
    keys := tw.keys.mapIdx fun k key => if k ∈ sent then key.dispatched tw.config.drive.moveTimeout else key
    port := tw.port.sendAll (sent.map fun k => .move k ((tw.keys[k]?.bind KeyRec.steps).getD 0)) }

/-- What a SWEEP check sends: nothing, or the computed sweep (R120). -/
def Tower.sweepMessage (tw : Tower) : List DriveMessage :=
  match tw.sweep with
  | some v => if tw.lastSweep = some v then [] else [.sweep v]
  | none => []

/-- The tower once the SWEEP that is due has been made (R120, R142). -/
def Tower.withSweep (tw : Tower) : Tower :=
  { tw with
    lastSweep := if tw.sweep.isSome then tw.sweep else tw.lastSweep
    port := tw.port.sendAll tw.sweepMessage }

/-- The tower after its drain check, written out: a PRESETTING tower with no key waiting or moving is PRINTING (R118). -/
def Tower.afterDrain (tw : Tower) : Tower :=
  if tw.state = .presetting ∧ tw.queue = [] ∧ tw.moving = 0 then { tw.withSweep with state := .printing } else tw

/-- Key k stood in a tower away from the target steps it has in the tower after a refresh (R126). -/
def Tower.leftAway (tw tw' : Tower) (k : Nat) : Bool :=
  match (tw.keys[k]?.bind fun key => key.drive.position), (tw'.keys[k]?.bind KeyRec.steps) with
  | some q, some n => n != q
  | _, _ => false

/-- A refresh that leaves the tower tw' changed key k's target steps (R57). -/
def Tower.stepsMoved (tw tw' : Tower) (k : Nat) : Bool :=
  (tw'.keys[k]?.bind KeyRec.steps) != (tw.keys[k]?.bind KeyRec.steps)

/-- The IDLE keys a refresh of every key leaves away from their targets, ascending: those whose target steps it changed, or those
whose steps it left (R113 steps 7 and 8). -/
def Tower.idleAway (tw tw' : Tower) (moved : Bool) : List Nat :=
  (List.range tw.z).filter fun k =>
    (tw.keys[k]?.map fun key => key.drive.state) == some .idle && tw.leftAway tw' k && tw.stepsMoved tw' k == moved

/-- The keys waiting for a motor slot once a refresh of every key has handed its target changes on, before any is sent: those that
were queued and still stand away from their targets, in their places, then the IDLE ones whose steps changed (R126, R128). -/
def Tower.lineAfter (tw tw' : Tower) : List Nat := tw.queue.filter (tw.leftAway tw') ++ tw.idleAway tw' true

/-- The Fault List after a refresh of every key of tower t that leaves the tower tw': one CURVE_INCOMPLETE fault where its RUN slot
is COMPLETE and a key looks up an INCOMPLETE curve (R62). -/
def State.faultsAfter (s : State) (t : TowerIx) (tw' : Tower) : FaultList :=
  if tw'.run.complete = true ∧ ∃ k ∈ List.range tw'.z, (s.curve (tw'.curveOf k)).length < 2 then
    s.faults.log .curveIncomplete (.tower t) s.sheets
  else s.faults

/-- The MOVE messages of a list of keys, toward the target steps they have (R127). -/
def Tower.movesOf (tw : Tower) (ks : List Nat) : List DriveMessage :=
  ks.map fun k => .move k ((tw.keys[k]?.bind KeyRec.steps).getD 0)

/-- The tower with key k's record replaced by what a function makes of it, and its drive port's framer in HUNT (R143). -/
def Tower.reported (tw : Tower) (k : Nat) (key : KeyRec) : Tower :=
  { tw with keys := tw.keys.set k key, port := { tw.port with framer := Framer.hunting } }

/-! ### Frames -/

/-- Everything but tower t, the fault list and the master ports is as it was. -/
def SameBut (t : TowerIx) (s u : State) : Prop :=
  u.pending = s.pending ∧ u.sheets = s.sheets ∧ u.curves = s.curves ∧ u.access = s.access ∧
    u.restartPending = s.restartPending ∧ ∀ t', t' ≠ t → u.tower t' = s.tower t'

/-- The plates, the record, the sweeps, the loop counters and the receive framer of a tower are as they were. -/
def Tower.SamePlates (tw tw' : Tower) : Prop :=
  tw'.config = tw.config ∧ tw'.run = tw.run ∧ tw'.next = tw.next ∧ tw'.sweep = tw.sweep ∧ tw'.counters = tw.counters ∧
    tw'.port.framer = tw.port.framer

/-- A key record but for its drive part. -/
def KeyRec.sameButDrive (a b : KeyRec) : Prop :=
  b.target = a.target ∧ b.effective = a.effective ∧ b.trim = a.trim ∧ b.acc = a.acc ∧ b.settleUntil = a.settleUntil

end Sys2Proof.Machine
end

