-- ==== Sys2Proof/Certificates/Slice0/Obligations.lean ====
section
/-! DEFINITION. The statements for the provers. Each says what it states; the rule it formalises is named in its docstring.

A reply is written as the body a port is left sending: the function byte, the result code, the data (R149, R175). A statement
of the form `exec c s = .next u` with u written out says the whole frame: what u does not name is as it was. A framer that a
reply, a report or a bad frame leaves is `Framer.hunting`: that it is in HUNT is the rules', what its marker, length and bytes
are there is the model's choice (log entry 5). -/

open Sys2Proof Sys2Proof.Machine

/-! ### The machine as a whole -/

/-- One step takes the command at the front of the queue whole; an empty queue idles (R159, log entry 1). -/
def Obligations.StepTakesFrontCommand : Prop :=
  (∀ (c : Instr) (rest : List Instr) (s : State),
    step { s with pending := c :: rest } = exec c { s with pending := rest }) ∧
  ∀ s : State, s.pending = [] → step s = .next s

/-- The codes of functions, results and enumerations are those of the tables (R173), and are recognised by them where a request
carries one; a drive-port report is read from its layout, and a body of another function code or another length is none (R143,
R178). -/
def Obligations.CodesAreAsTabled : Prop :=
  (([.identify, .sheetGet, .towerStatus, .keyStatus, .configGet, .faultsTake, .windowSet, .writeModeSet, .zonesWrite,
      .zonesFill, .zonesRead, .zonesAbove, .slotClear, .slotTagSet, .curveSelect, .curvePut, .curveGet, .curveClear,
      .measure, .configSet, .engage, .disengage, .jobChange, .hold, .release, .trimSet, .trimNudge, .clearKeyFault,
      .accessSet, .restart] : List MasterFn).map fun fn => fn.code.toNat) =
    [0x01, 0x02, 0x03, 0x04, 0x05, 0x06, 0x10, 0x11, 0x12, 0x13, 0x14, 0x15, 0x16, 0x17, 0x18, 0x19, 0x1A, 0x1B, 0x20,
     0x30, 0x31, 0x32, 0x33, 0x34, 0x35, 0x36, 0x37, 0x38, 0x39, 0x3A] ∧
  (∀ fn : MasterFn, MasterFn.ofCode fn.code = some fn) ∧
  (∀ b : Byte, (∀ fn : MasterFn, fn.code ≠ b) → MasterFn.ofCode b = none) ∧
  (([.ok, .okClamped, .frame, .unknown, .rank, .length, .denied, .range, .state, .busy, .notReady, .incomplete,
      .order] : List Result).map fun r => r.code.toNat) = [0, 1, 2, 3, 4, 5, 6, 7, 8, 9, 10, 11, 12] ∧
  (([.dark, .presetting, .printing, .held] : List TowerState).map fun x => x.code.toNat) = [0, 1, 2, 3] ∧
  (([.unknown, .idle, .queued, .moving, .faulted] : List DriveState).map fun x => x.code.toNat) = [0, 1, 2, 3, 4] ∧
  (([.empty, .loading, .complete] : List SlotState).map fun x => x.code.toNat) = [0, 1, 2] ∧
  (([.stall, .overrange, .driver, .timeout, .short, .noAnswer, .late, .curveIncomplete, .linkFrame] : List FaultKind).map
    FaultKind.code) = [0, 1, 2, 3, 4, 5, 6, 7, 8] ∧
  (([.none, .low, .high] : List ClampMark).map fun x => x.code.toNat) = [0, 1, 2] ∧
  (([.run, .next] : List SlotName).map fun x => x.code.toNat) = [0, 1] ∧
  (([.up, .down] : List Direction).map fun x => x.code.toNat) = [0, 1] ∧
  (([.replace, .add, .subtract, .max] : List Mode).map fun x => x.code.toNat) = [0, 1, 2, 3] ∧
  (CursorPhase.even.code = 0x00#8 ∧ ∀ held, (CursorPhase.half held).code = 0x01#8) ∧
  (([.none, .read, .write] : List LastOp).map fun x => x.code.toNat) = [0, 1, 2] ∧
  (∀ x : SlotName, readSlot x.code = some x) ∧ (∀ b : Byte, 2 ≤ b.toNat → readSlot b = none) ∧
  (∀ x : Direction, readDirection x.code = some x) ∧ (∀ b : Byte, 2 ≤ b.toNat → readDirection b = none) ∧
  (∀ x : Mode, readMode x.code = some x) ∧ (∀ b : Byte, 4 ≤ b.toNat → readMode b = none) ∧
  (∀ k b c : Byte, decodeReport [0x60#8, k, b, c] = some (.done k (b ++ c)) ∧
    decodeReport [0x62#8, k, b, c] = some (.pos k (b ++ c)) ∧
    decodeReport [0x61#8, k, 0x00#8, b, c] = some (.fault k .stall (b ++ c)) ∧
    decodeReport [0x61#8, k, 0x01#8, b, c] = some (.fault k .overrange (b ++ c)) ∧
    decodeReport [0x61#8, k, 0x02#8, b, c] = some (.fault k .driver (b ++ c)) ∧
    ∀ kind : Byte, 3 ≤ kind.toNat → decodeReport [0x61#8, k, kind, b, c] = none) ∧
  (∀ (code : Byte) (fields : List Byte), code ∉ [0x60#8, 0x61#8, 0x62#8] → decodeReport (code :: fields) = none) ∧
  (∀ (code : Byte) (fields : List Byte), code ∈ [0x60#8, 0x62#8] → fields.length ≠ 3 → decodeReport (code :: fields) = none) ∧
  (∀ fields : List Byte, fields.length ≠ 4 → decodeReport (0x61#8 :: fields) = none) ∧ decodeReport [] = none ∧
  (∀ k b c : Byte, (DriveMessage.move k.toNat (b.toNat * 256 + c.toNat)).body = [0x50#8, k, b, c] ∧
    (DriveMessage.ask k.toNat).body = [0x51#8, k] ∧ (DriveMessage.sweep k.toNat).body = [0x52#8, k])

/-- The machine at power-on satisfies every invariant of the rules. -/
def Obligations.InvariantsHoldAtReset : Prop :=
  State.reset.GeometrySound ∧ State.reset.CurvesSound ∧ State.reset.faults.Sound ∧ State.reset.RangesSound ∧
    State.reset.QueueSound ∧ State.reset.MovingSound ∧ State.reset.DispatchSound ∧ State.reset.PresettingSound ∧
    State.reset.TargetsSound ∧ State.reset.PresetsCurrent ∧ State.reset.RunningSound ∧ State.reset.LinksSound

/-- POWER_ON gives every block its power-on values and surveys every key (R6, R18, R23, R40, R42, R55, R77, R89, R92, R95,
R104, R105, R123 to R125, R138, R142, R146, R157, R161). That the commands still waiting are kept is the model's choice, log
entry 10. -/
def Obligations.PowerOnTakesPowerOnValues : Prop :=
  ∀ s : State, ∃ u : State, exec .powerOn s = .next u ∧ u.pending = s.pending ∧ u.sheets = 0#32 ∧
    (∀ t : TowerIx,
      let tw := u.tower t
      tw.config =
        { geometry := { z := 32, f := 1000, reversed := false }
          metering := { curveA := 0, curveB := 0, split := 32, w0 := 4, w1 := 2, w2 := 1, scale := 100, minOpen := 0,
                        maxOpen := 1000, closeEmpty := false, sweepBase := 20, sweepGain := 60 }
          drive := { concurrency := 4, settleSheets := 30, moveTimeout := 3000, tolerance := 2 }
          loop := { enable := false, gain := 250, deadband := 20, stepLimit := 10 } } ∧
      (∀ n : SlotName, (tw.slot n).coverage = List.replicate 32 none ∧ (tw.slot n).tag = none ∧
        (tw.slot n).mirrored = false) ∧
      tw.state = .dark ∧
      tw.keys = List.replicate 32
        { drive := .unknown, target := none, effective := none, trim := 0, acc := 0, settleUntil := 0#32 } ∧
      tw.queue = [] ∧ tw.moving = 0 ∧ tw.sweep = none ∧ tw.lastSweep = none ∧
      tw.counters = { applied := 0, settleSkipped := 0, deadbandSkipped := 0, stateSkipped := 0 } ∧
      tw.port.framer.phase = .hunt ∧ tw.port.framer.marker = false ∧
      tw.port.sending.toList ++ tw.port.waiting = (List.range 32).map .ask) ∧
    (∀ c : CurveIx, u.curve c = []) ∧
    (∀ p : MasterPort, (u.port p).ctx =
        { tower := 0, slot := .next, first := 0, last := 31, pointer := some 0, direction := .up, mode := .replace,
          mask := BitVec.allOnes 48 } ∧
      (u.port p).cursor = { curve := 0, index := 0, phase := .even, lastOp := .none } ∧
      (u.port p).framer.phase = .hunt ∧ (u.port p).framer.marker = false ∧ (u.port p).framer.timer = false ∧
      u.busy p = false) ∧
    u.access.trust = 0 ∧ (∀ p : MasterPort, u.access.denyMap p = 0#13) ∧ u.faults.records = [] ∧ u.faults.full = false

/-- A sheet pulse advances the count by one, wrapping, and nothing else (R89); SHEET GET returns the count as it stands and
changes nothing (R169). -/
def Obligations.SheetCountAdvancesAndIsReturned : Prop :=
  (∀ s : State, ∃ u : State, exec .sheetPulse s = .next u ∧ u = { s with sheets := u.sheets } ∧
    u.sheets.toNat = (s.sheets.toNat + 1) % 2 ^ 32) ∧
  ∀ (p : MasterPort) (s : State), s.busy p = false →
    ∃ body, exec (.sheetGet p []) s = .next (s.sendReply p body) ∧ body.length = 6 ∧
      body.take 2 = [0x82#8, 0x00#8] ∧ Field32 body 2 s.sheets

/-! ### Reading requests -/

/-- IDENTIFY returns the fixed values, whatever the state, the configuration and the link (R168). -/
def Obligations.IdentifyReturnsFixedValues : Prop :=
  ∀ (p : MasterPort) (s : State), s.busy p = false →
    exec (.identify p []) s = .next (s.sendReply p
      [0x81#8, 0x00#8, 0x5A#8, 0x4B#8, 0x0C#8, 0x12#8, 0x01#8, 12#8, 48#8, 16#8, 12#8])

/-- TOWER STATUS returns the status record of its tower and changes nothing (R170, R176); a tower outside 0..11 is refused. -/
def Obligations.TowerStatusReturnsRecord : Prop :=
  (∀ (p : MasterPort) (t : TowerIx) (b : Byte) (s : State), b.toNat = t.val → s.busy p = false →
    let tw := s.tower t
    let slotByte := fun sl : Slot =>
      if sl.coverage.all Option.isNone then 0 else if sl.coverage.all Option.isSome then 2 else 1
    tw.keys.length ≤ 48 → tw.queue.length ≤ 48 → tw.moving ≤ 8 → (∀ v ∈ tw.sweep, v ≤ 100) →
    (∀ v ∈ tw.lastSweep, v ≤ 100) → tw.counters.applied ≤ 65535 → tw.counters.settleSkipped ≤ 65535 →
    tw.counters.deadbandSkipped ≤ 65535 → tw.counters.stateSkipped ≤ 65535 →
    ∃ body, exec (.towerStatus p [b]) s = .next (s.sendReply p body) ∧ body.length = 33 ∧
      body.take 2 = [0x83#8, 0x00#8] ∧ Field8 body 2 t.val ∧
      Field8 body 3 (match tw.state with
        | .dark => 0
        | .presetting => 1
        | .printing => 2
        | .held => 3) ∧
      Field8 body 4 (slotByte tw.run) ∧ Field8 body 5 (if tw.run.mirrored then 1 else 0) ∧
      Field8 body 6 (if tw.run.tag.isSome then 1 else 0) ∧ Field32 body 7 (tw.run.tag.getD 0#32) ∧
      Field8 body 11 (slotByte tw.next) ∧ Field8 body 12 (if tw.next.mirrored then 1 else 0) ∧
      Field8 body 13 (if tw.next.tag.isSome then 1 else 0) ∧ Field32 body 14 (tw.next.tag.getD 0#32) ∧
      Field8 body 18 tw.queue.length ∧ Field8 body 19 tw.moving ∧
      Field8 body 20 (tw.keys.filter fun key => key.drive.state = .faulted).length ∧
      Field8 body 21 (tw.keys.filter fun key => key.drive.state = .unknown).length ∧
      Field8 body 22 (tw.sweep.getD 255) ∧ Field8 body 23 (tw.lastSweep.getD 255) ∧
      Field16 body 24 tw.counters.applied ∧ Field16 body 26 tw.counters.settleSkipped ∧
      Field16 body 28 tw.counters.deadbandSkipped ∧ Field16 body 30 tw.counters.stateSkipped ∧
      Field8 body 32 (if (s.curve tw.config.metering.curveA).length < 2 ∨ (s.curve tw.config.metering.curveB).length < 2
        then 1 else 0)) ∧
  ∀ (p : MasterPort) (b : Byte) (s : State), 12 ≤ b.toNat → s.busy p = false →
    exec (.towerStatus p [b]) s = .next (s.sendReply p [0x83#8, 0x07#8])

/-- KEY STATUS returns one record of 20 bytes for each key of its run and changes nothing (R171, R176); its range checks
refuse (R2, R171). -/
def Obligations.KeyStatusReturnsRecords : Prop :=
  (∀ (p : MasterPort) (t : TowerIx) (b first count : Byte) (s : State), b.toNat = t.val → s.busy p = false →
    1 ≤ count.toNat → count.toNat ≤ 12 → first.toNat + count.toNat ≤ (s.tower t).z →
    (s.tower t).keys.length = (s.tower t).z →
    (∀ key ∈ (s.tower t).keys, key.CorrectionsSound ∧ (∀ q ∈ key.drive.position, q ≤ 65535) ∧
      (∀ g ∈ key.target, g.opening ≤ 1000 ∧ g.steps ≤ 4000) ∧ ∀ e ∈ key.effective, e ≤ 1000) →
    ∃ body, exec (.keyStatus p [b, first, count]) s = .next (s.sendReply p body) ∧
      body.length = 5 + 20 * count.toNat ∧ body.take 5 = [0x84#8, 0x00#8, b, first, count] ∧
      ∀ i key, i < count.toNat → (s.tower t).keys[first.toNat + i]? = some key →
        let o := 5 + 20 * i
        Field8 body o (match key.drive.state with
          | .unknown => 0
          | .idle => 1
          | .queued => 2
          | .moving => 3
          | .faulted => 4) ∧
        Field8 body (o + 1) (match key.drive.faultKind with
          | none => 255
          | some .stall => 0
          | some .overrange => 1
          | some .driver => 2
          | some .timeout => 3
          | some .short => 4
          | some .noAnswer => 5) ∧
        Field8 body (o + 2) (if key.drive.position.isSome then 1 else 0) ∧
        Field16 body (o + 3) (key.drive.position.getD 0) ∧
        Field16 body (o + 5) ((key.target.map Target.opening).getD 65535) ∧
        Field16 body (o + 7) ((key.target.map Target.steps).getD 65535) ∧
        Field8 body (o + 9) (match key.target.map Target.mark with
          | none => 255
          | some .none => 0
          | some .low => 1
          | some .high => 2) ∧
        Field16 body (o + 10) (key.effective.getD 65535) ∧ FieldSigned16 body (o + 12) key.trim ∧
        FieldSigned16 body (o + 14) key.acc ∧ Field32 body (o + 16) key.settleUntil) ∧
  ∀ (p : MasterPort) (b first count : Byte) (s : State), s.busy p = false →
    (12 ≤ b.toNat ∨ count.toNat = 0 ∨ 12 < count.toNat ∨
      ∃ t : TowerIx, b.toNat = t.val ∧ (s.tower t).z < first.toNat + count.toNat) →
    exec (.keyStatus p [b, first, count]) s = .next (s.sendReply p [0x84#8, 0x07#8])

/-- CONFIG GET returns the tower's record on every link, whatever the deny maps, and a tower outside 0..11 is refused; the
record sent back unchanged by CONFIG SET is accepted with OK in every tower state and changes nothing (R17). -/
def Obligations.ConfigGetAndSetRoundTrip : Prop :=
  (∀ (t : TowerIx) (b : Byte) (s : State), b.toNat = t.val → (s.tower t).config.Sound →
    ∃ record : List Byte, record.length = 29 ∧ readConfig record = some (s.tower t).config ∧
      (∀ p, s.busy p = false → exec (.configGet p [b]) s = .next (s.sendReply p (0x85#8 :: 0x00#8 :: b :: record))) ∧
      (s.busy .console = false →
        exec (.configSet .console (b :: record)) s = .next (s.sendReply .console [0xB0#8, 0x00#8]))) ∧
  ∀ (p : MasterPort) (b : Byte) (s : State), 12 ≤ b.toNat → s.busy p = false →
    exec (.configGet p [b]) s = .next (s.sendReply p [0x85#8, 0x07#8])

/-- FAULTS TAKE returns the FULL mark as read, removes up to n records from the head, oldest first, clears FULL when it removed
any, and changes nothing else (R165, R177); an n outside 1..32 is refused. -/
def Obligations.FaultsTakeReturnsOldestFirst : Prop :=
  (∀ (n : Byte) (s : State), s.busy .console = false → 1 ≤ n.toNat → n.toNat ≤ 32 → s.faults.Sound →
    (∀ r ∈ s.faults.records, ∀ t k, r.origin = .key t k → k < 48) →
    let taken := s.faults.records.take n.toNat
    let left := s.faults.records.drop n.toNat
    ∃ body, exec (.faultsTake .console [n]) s = .next (({ s with faults :=
        { records := left, full := if taken = [] then s.faults.full else false } } : State).sendReply .console body) ∧
      body.length = 9 + 7 * taken.length ∧ body.take 2 = [0x86#8, 0x00#8] ∧
      Field8 body 2 (if s.faults.full then 1 else 0) ∧ Field8 body 3 taken.length ∧ Field8 body 4 left.length ∧
      Field32 body 5 s.sheets ∧
      ∀ i r, taken[i]? = some r →
        let o := 9 + 7 * i
        Field8 body o (16 * r.kind.code + match r.origin with
          | .key t _ => t.val
          | .tower t => t.val
          | .port .console => 12
          | .port .plate => 13
          | .port .scanner => 14) ∧
        Field8 body (o + 1) (match r.origin with
          | .key _ k => k
          | .tower _ => 255
          | .port _ => 255) ∧
        Field8 body (o + 2) r.count ∧
        Field16 body (o + 3) (min 65535 ((s.sheets.toNat + 2 ^ 32 - r.first.toNat) % 2 ^ 32)) ∧
        Field16 body (o + 5) (min 65535 ((s.sheets.toNat + 2 ^ 32 - r.last.toNat) % 2 ^ 32))) ∧
  ∀ (n : Byte) (s : State), s.busy .console = false → (n.toNat = 0 ∨ 32 < n.toNat) →
    exec (.faultsTake .console [n]) s = .next (s.sendReply .console [0x86#8, 0x07#8])

/-! ### The request check order -/

/-- A code that names no master function is refused with UNKNOWN, the drive-port codes among them; a port whose rank number is
greater than the function's required rank is refused with RANK, whatever the trust level and the deny maps hold, and no other
request is (R152). -/
def Obligations.FunctionAndRankChecks : Prop :=
  (∀ (p : MasterPort) (code : Byte) (args : List Byte) (s : State), s.busy p = false → (∀ fn : MasterFn, fn.code ≠ code) →
    exec (.unknownFunction p code args) s = .next (s.sendReply p [code + 0x80#8, 0x03#8])) ∧
  (∀ code ∈ [0x50#8, 0x51#8, 0x52#8, 0x60#8, 0x61#8, 0x62#8], ∀ fn : MasterFn, fn.code ≠ code) ∧
  (∀ (fn : MasterFn) (p : MasterPort) (args : List Byte) (s : State), s.busy p = false → ¬RankAllows p fn →
    exec (fn.command p args) s = .next (s.sendReply p [fn.code + 0x80#8, 0x04#8])) ∧
  ∀ (fn : MasterFn) (p : MasterPort) (args : List Byte) (s : State), s.busy p = false → RankAllows p fn →
    ∃ u f r data, exec (fn.command p args) s = .next u ∧ (u.port p).reply = some (f :: r :: data) ∧ r ≠ 0x04#8 ∧ r ≠ 0x03#8

/-- A body that is not the function's layout is refused with LENGTH before the access check, and no other body is (R153,
R176). -/
def Obligations.LengthCheck : Prop :=
  (∀ (fn : MasterFn) (p : MasterPort) (args : List Byte) (s : State), s.busy p = false → RankAllows p fn →
    ¬LayoutLength fn args.length →
    exec (fn.command p args) s = .next (s.sendReply p [fn.code + 0x80#8, 0x05#8])) ∧
  ∀ (fn : MasterFn) (p : MasterPort) (args : List Byte) (s : State), s.busy p = false → RankAllows p fn →
    LayoutLength fn args.length →
    ∃ u f r data, exec (fn.command p args) s = .next u ∧ (u.port p).reply = some (f :: r :: data) ∧ r ≠ 0x05#8

/-- A store of a port whose rank is above the trust level, into a tower or the curves that its map holds, is refused with
DENIED and changes nothing (R154). -/
def Obligations.AccessCheckDenies : Prop :=
  (∀ (fn : MasterFn) (p : MasterPort) (t : TowerIx) (b : Byte) (args : List Byte) (s : State), s.busy p = false →
    fn ∈ [MasterFn.measure, .slotClear, .slotTagSet] → RankAllows p fn → LayoutLength fn (args.length + 1) →
    b.toNat = t.val → ¬s.Permits p t.val →
    exec (fn.command p (b :: args)) s = .next (s.sendReply p [fn.code + 0x80#8, 0x06#8])) ∧
  (∀ (fn : MasterFn) (p : MasterPort) (args : List Byte) (s : State), s.busy p = false →
    fn ∈ [MasterFn.zonesWrite, .zonesFill] → RankAllows p fn → LayoutLength fn args.length →
    ¬s.Permits p (s.port p).ctx.tower.val →
    exec (fn.command p args) s = .next (s.sendReply p [fn.code + 0x80#8, 0x06#8])) ∧
  (∀ (fn : MasterFn) (p : MasterPort) (args : List Byte) (s : State), s.busy p = false →
    fn ∈ [MasterFn.curvePut, .curveClear] → RankAllows p fn → LayoutLength fn args.length → ¬s.Permits p 12 →
    exec (fn.command p args) s = .next (s.sendReply p [fn.code + 0x80#8, 0x06#8])) ∧
  ∀ (s : State) (m : Nat), s.Permits .console m

/-- A refused request changes no state but its own port's reply (R151): every answer of two bytes other than OK and OK_CLAMPED
leaves everything as it was. -/
def Obligations.RefusedRequestChangesNothing : Prop :=
  ∀ (fn : MasterFn) (p : MasterPort) (args : List Byte) (s u : State) (f r : Byte), s.busy p = false →
    exec (fn.command p args) s = .next u → (u.port p).reply = some [f, r] → r ≠ 0x00#8 → r ≠ 0x01#8 →
    u = s.sendReply p [f, r]

/-- Every request on a port that is not busy is answered with exactly one reply: its function code plus 0x80, a result code of
the table, and data; no other port's reply or framer changes (R149, R175). -/
def Obligations.EveryRequestIsAnsweredOnce : Prop :=
  ∀ (fn : MasterFn) (p : MasterPort) (args : List Byte) (s : State), s.busy p = false →
    ∃ u r data, exec (fn.command p args) s = .next u ∧
      (u.port p).reply = some ((fn.code + 0x80#8) :: r :: data) ∧ r.toNat ≤ 12 ∧ (u.port p).framer.phase = .hunt ∧
      ∀ q, q ≠ p → (u.port q).reply = (s.port q).reply ∧ (u.port q).framer = (s.port q).framer

/-- Nothing reaches a busy master port: characters on it are lost (R148), and a whole frame on it is lost with them (the
model's reading, log entry 7). -/
def Obligations.BusyPortTakesNothing : Prop :=
  ∀ (p : MasterPort) (s : State), s.busy p = true →
    (∀ (fn : MasterFn) (args : List Byte), exec (fn.command p args) s = .next s) ∧
    (∀ (code : Byte) (args : List Byte), exec (.unknownFunction p code args) s = .next s) ∧
    (∀ first : Option Byte, exec (.masterBadFrame p first) s = .next s) ∧
    ∀ ch : Character, exec (.masterLinkCharacter p ch) s = .next s

/-! ### The lines -/

/-- The characters of a good frame, taken one by one by a port that is not busy and whose framer is in HUNT, have exactly the
effect of the command that the frame's body is (R147, R148, R152). -/
def Obligations.MasterFrameIsReceived : Prop :=
  ∀ (p : MasterPort) (code : Byte) (args : List Byte) (rest : List Instr) (s : State), s.busy p = false →
    (s.port p).framer = Framer.hunting → args.length ≤ 249 →
    Host.Core.run Sys2Proof.core (args.length + 4)
      { s with pending := (frameCharacters (code :: args)).map (.masterLinkCharacter p) ++ rest } =
    exec (decodeRequest p code args) { s with pending := rest }

/-- The characters of a report's frame, taken one by one by a drive port whose framer is in HUNT, have exactly the effect of the
report's command (R130, R143). -/
def Obligations.DriveFrameIsReceived : Prop :=
  ∀ (t : TowerIx) (body : List Byte) (r : Report) (rest : List Instr) (s : State), decodeReport body = some r →
    (s.tower t).port.framer = Framer.hunting →
    Host.Core.run Sys2Proof.core (body.length + 3)
      { s with pending := (frameCharacters body).map (.drivePortCharacter t) ++ rest } =
    exec (r.command t) { s with pending := rest }

/-- What a master port's framer makes of each character in each phase (R147), what a bad frame is answered with and logs (R148,
R150), and what an abandoned frame does (R147). That MASTER_FRAME_ABANDON changes nothing where no timer runs is the model's
reading, log entry 4; what the framer holds in HUNT after a frame's end is its choice, log entry 5. -/
def Obligations.MasterPortFraming : Prop :=
  (∀ (p : MasterPort) (ch : Character) (s : State), s.busy p = false →
    let f := (s.port p).framer
    let marked := f.marker || !goodParity ch
    let bad := fun first : Byte => (s.logFault .linkFrame (.port p)).sendReply p [first + 0x80#8, 0x02#8]
    (f.phase = .hunt → ch.data = 0xA5#8 → goodParity ch = true →
      ∃ g : Framer, exec (.masterLinkCharacter p ch) s = .next (s.setFramer p g) ∧ g.phase = .length ∧
        g.marker = false ∧ g.timer = true ∧ g.body = []) ∧
    (f.phase = .hunt → (ch.data ≠ 0xA5#8 ∨ goodParity ch = false) → exec (.masterLinkCharacter p ch) s = .next s) ∧
    (f.phase = .length → 1 ≤ ch.data.toNat → ch.data.toNat ≤ 250 →
      exec (.masterLinkCharacter p ch) s = .next (s.setFramer p
        { f with phase := .body, len := ch.data.toNat, marker := marked, timer := true })) ∧
    (f.phase = .length → (ch.data.toNat = 0 ∨ 250 < ch.data.toNat) →
      exec (.masterLinkCharacter p ch) s = .next (bad 0x00#8)) ∧
    (f.phase = .body →
      exec (.masterLinkCharacter p ch) s = .next (s.setFramer p
        { f with phase := if f.body.length + 1 < f.len then .body else .check, body := f.body ++ [ch.data],
                 marker := marked, timer := true })) ∧
    (f.phase = .check → ∀ code args, f.body = code :: args →
      let sum := (f.len + (f.body.map BitVec.toNat).sum + ch.data.toNat) % 256
      (marked = false → sum = 0 →
        exec (.masterLinkCharacter p ch) s = exec (decodeRequest p code args) (s.setFramer p Framer.hunting)) ∧
      (marked = true ∨ sum ≠ 0 → exec (.masterLinkCharacter p ch) s = .next (bad code)))) ∧
  (∀ (p : MasterPort) (first : Option Byte) (s : State), s.busy p = false →
    exec (.masterBadFrame p first) s =
      .next ((s.logFault .linkFrame (.port p)).sendReply p [first.getD 0x00#8 + 0x80#8, 0x02#8])) ∧
  ∀ (p : MasterPort) (s : State),
    ((s.port p).framer.timer = true → ∃ g : Framer, exec (.masterFrameAbandon p) s = .next (s.setFramer p g) ∧
      g.phase = .hunt ∧ g.timer = false) ∧
    ((s.port p).framer.timer = false → exec (.masterFrameAbandon p) s = .next s)

/-- What a drive port's framer makes of each character in each phase, the four checks of a frame's end, a bad frame's LINK_FRAME
fault of the tower, and an abandoned frame (R143, R178). That DRIVE_FRAME_ABANDON changes nothing where no timer runs is the
model's reading, log entry 4. -/
def Obligations.DrivePortFraming : Prop :=
  (∀ (t : TowerIx) (ch : Character) (s : State),
    let tw := s.tower t
    let f := tw.port.framer
    let marked := f.marker || !goodParity ch
    let framed := fun g : Framer => s.setTower t { tw with port := { tw.port with framer := g } }
    let bad := fun u : State => ∃ g : Framer, g.phase = .hunt ∧ g.timer = false ∧
      u = (framed g).logFault .linkFrame (.tower t)
    (f.phase = .hunt → ch.data = 0xA5#8 → goodParity ch = true →
      ∃ g : Framer, exec (.drivePortCharacter t ch) s = .next (framed g) ∧ g.phase = .length ∧ g.marker = false ∧
        g.timer = true ∧ g.body = []) ∧
    (f.phase = .hunt → (ch.data ≠ 0xA5#8 ∨ goodParity ch = false) → exec (.drivePortCharacter t ch) s = .next s) ∧
    (f.phase = .length → 1 ≤ ch.data.toNat → ch.data.toNat ≤ 250 →
      exec (.drivePortCharacter t ch) s = .next (framed
        { f with phase := .body, len := ch.data.toNat, marker := marked, timer := true })) ∧
    (f.phase = .length → (ch.data.toNat = 0 ∨ 250 < ch.data.toNat) →
      ∃ u, exec (.drivePortCharacter t ch) s = .next u ∧ bad u) ∧
    (f.phase = .body →
      exec (.drivePortCharacter t ch) s = .next (framed
        { f with phase := if f.body.length + 1 < f.len then .body else .check, body := f.body ++ [ch.data],
                 marker := marked, timer := true })) ∧
    (f.phase = .check →
      let sum := (f.len + (f.body.map BitVec.toNat).sum + ch.data.toNat) % 256
      (∀ r, marked = false → sum = 0 → decodeReport f.body = some r →
        exec (.drivePortCharacter t ch) s = exec (r.command t) s) ∧
      (marked = true ∨ sum ≠ 0 ∨ decodeReport f.body = none →
        ∃ u, exec (.drivePortCharacter t ch) s = .next u ∧ bad u) ∧
      ∀ (code : Byte) (fields : List Byte), f.body = code :: fields →
        (code ∉ [0x60#8, 0x61#8, 0x62#8] ∨ (code ∈ [0x60#8, 0x62#8] ∧ fields.length ≠ 3) ∨
          (code = 0x61#8 ∧ (fields.length ≠ 4 ∨ ∃ kind ∈ fields[1]?, 3 ≤ kind.toNat)) →
          decodeReport f.body = none ∧ ∃ u, exec (.drivePortCharacter t ch) s = .next u ∧ bad u)) ∧
    (∃ u, exec (.drivePortBadFrame t) s = .next u ∧ bad u)) ∧
  ∀ (t : TowerIx) (s : State),
    ((s.tower t).port.framer.timer = true → ∃ g : Framer, g.phase = .hunt ∧ g.timer = false ∧
      exec (.driveFrameAbandon t) s =
        .next (s.setTower t { s.tower t with port := { (s.tower t).port with framer := g } })) ∧
    ((s.tower t).port.framer.timer = false → exec (.driveFrameAbandon t) s = .next s)

/-- A reply wholly sent leaves its port free and its framer in HUNT (R148); a drive port sends its messages one after another in
the order they are made (R129). That REPLY_SENT leaves a port that sends no reply as it is, and DRIVE_PORT_MESSAGE_SENT a port
that sends no message sending none, is the model's reading, log entry 4. -/
def Obligations.RepliesAndMessagesAreSent : Prop :=
  (∀ (p : MasterPort) (s : State), s.busy p = true → ¬(p = .console ∧ s.restartPending = true) →
    ∃ g : Framer, g.phase = .hunt ∧ g.timer = false ∧
      exec (.replySent p) s = .next (s.setPort p { s.port p with framer := g, reply := none })) ∧
  (∀ (p : MasterPort) (s : State), s.busy p = false → exec (.replySent p) s = .next s) ∧
  (∀ (t : TowerIx) (s : State), ∃ u d, exec (.drivePortMessageSent t) s = .next u ∧
    u = s.setTower t { s.tower t with port := d } ∧ d.framer = (s.tower t).port.framer ∧
    d.sending.toList ++ d.waiting = (s.tower t).port.waiting) ∧
  ∀ (d : DrivePort) (m : DriveMessage), (d.sending = none → d.waiting = []) →
    (d.send m).sending.toList ++ (d.send m).waiting = d.sending.toList ++ d.waiting ++ [m] ∧
      (d.send m).framer = d.framer ∧ (d.send m).sending ≠ none

/-- A fault of a kind and origin in the list merges into its record, which keeps its place and first sheet; another makes a new
record at the tail of a list of fewer than 32; on a full list it is dropped and FULL is set. Nothing else changes (R162). -/
def Obligations.FaultIsMergedAppendedOrDropped : Prop :=
  ∀ (kind : FaultKind) (origin : Origin) (s : State),
    let l := s.faults
    let m := (s.logFault kind origin).faults
    s.logFault kind origin = { s with faults := m } ∧
    ((∃ r ∈ l.records, r.kind = kind ∧ r.origin = origin) →
      m.full = l.full ∧ m.records.length = l.records.length ∧
      ∀ (i : Nat) (r : FaultRecord), l.records[i]? = some r → ∃ r' : FaultRecord, m.records[i]? = some r' ∧ r'.kind = r.kind ∧ r'.origin = r.origin ∧
        r'.first = r.first ∧
        (r.kind = kind ∧ r.origin = origin → r'.last = s.sheets ∧ r'.count = if r.count < 255 then r.count + 1 else r.count) ∧
        (¬(r.kind = kind ∧ r.origin = origin) → r' = r)) ∧
    ((¬∃ r ∈ l.records, r.kind = kind ∧ r.origin = origin) → l.records.length < 32 →
      m.full = l.full ∧
      m.records = l.records ++ [{ kind := kind, origin := origin, first := s.sheets, last := s.sheets, count := 1 }]) ∧
    ((¬∃ r ∈ l.records, r.kind = kind ∧ r.origin = origin) → 32 ≤ l.records.length →
      m.full = true ∧ m.records = l.records)

/-! ### The Plate Coverage Store -/

/-- The pointer is placed at first if the direction is UP and at last if it is DOWN, by WINDOW SET, by WRITE MODE SET and by the
reset that follows a change of Z; ZONES FILL, ZONES READ and ZONES ABOVE leave it (R24). WINDOW SET and WRITE MODE SET change
the port's write context alone, answer with it, and refuse what lies out of range (R25, R26). -/
def Obligations.WindowEndIsChosenForPointer : Prop :=
  (∀ (p : MasterPort) (t : TowerIx) (slot : SlotName) (b sl f l : Byte) (s : State), s.busy p = false → b.toNat = t.val →
    sl = (if slot = .run then 0x00#8 else 0x01#8) → f.toNat ≤ l.toNat → l.toNat < (s.tower t).z →
    let c := (s.port p).ctx
    let c' := { c with tower := t, slot := slot, first := f.toNat, last := l.toNat,
                       pointer := some (if c.direction = .up then f.toNat else l.toNat) }
    ∃ body, exec (.windowSet p [b, sl, f, l]) s = .next ((s.setCtx p c').sendReply p body) ∧ body.length = 15 ∧
      body.take 2 = [0x90#8, 0x00#8] ∧ ContextFields body 2 c') ∧
  (∀ (p : MasterPort) (b sl f l : Byte) (s : State), s.busy p = false →
    (12 ≤ b.toNat ∨ 2 ≤ sl.toNat ∨ l.toNat < f.toNat ∨ ∃ t : TowerIx, b.toNat = t.val ∧ (s.tower t).z ≤ l.toNat) →
    exec (.windowSet p [b, sl, f, l]) s = .next (s.sendReply p [0x90#8, 0x07#8])) ∧
  (∀ (p : MasterPort) (mode : Mode) (direction : Direction) (mask : BitVec 48) (m d : Byte) (ms : List Byte) (s : State),
    s.busy p = false →
    m = (match mode with
      | .replace => 0x00#8
      | .add => 0x01#8
      | .subtract => 0x02#8
      | .max => 0x03#8) →
    d = (if direction = .up then 0x00#8 else 0x01#8) → ms.length = 6 → FieldSet ms 0 mask.getLsbD →
    (s.port p).ctx.first ≤ 47 → (s.port p).ctx.last ≤ 47 →
    let c := (s.port p).ctx
    let c' := { c with mode := mode, direction := direction, mask := mask,
                       pointer := some (if direction = .up then c.first else c.last) }
    ∃ body, exec (.writeModeSet p (m :: d :: ms)) s = .next ((s.setCtx p c').sendReply p body) ∧ body.length = 15 ∧
      body.take 2 = [0x91#8, 0x00#8] ∧ ContextFields body 2 c') ∧
  (∀ (p : MasterPort) (m d : Byte) (ms : List Byte) (s : State), s.busy p = false → ms.length = 6 →
    (4 ≤ m.toNat ∨ 2 ≤ d.toNat) →
    exec (.writeModeSet p (m :: d :: ms)) s = .next (s.sendReply p [0x91#8, 0x07#8])) ∧
  (∀ (fn : MasterFn) (p : MasterPort) (args : List Byte) (s u : State), fn ∈ [MasterFn.zonesFill, .zonesRead, .zonesAbove] →
    exec (fn.command p args) s = .next u → (u.port p).ctx = (s.port p).ctx) ∧
  ∀ (args : List Byte) (t : TowerIx) (q : MasterPort) (s u : State), exec (.configSet .console args) s = .next u →
    (u.tower t).z ≠ (s.tower t).z → (s.port q).ctx.tower = t →
    (u.port q).ctx.first = 0 ∧ (u.port q).ctx.last = (u.tower t).z - 1 ∧
      (u.port q).ctx.pointer = some (if (s.port q).ctx.direction = .up then 0 else (u.tower t).z - 1)

/-- ZONES WRITE takes its values in order at the pointer: each is clamped and combined into its zone where the mask has it, the
pointer walks the window and becomes EXHAUSTED past its end, later values are discarded, and the reply counts the values
consumed (R27, R29, R30, R31). A NEXT slot hands nothing on (R22). -/
def Obligations.ZonesWriteStreamsThroughPointer : Prop :=
  ∀ (p : MasterPort) (values : List Nat) (s : State), p ≠ .scanner → s.busy p = false →
    let c := (s.port p).ctx
    let tw := s.tower c.tower
    let sl := tw.slot c.slot
    1 ≤ values.length → values.length ≤ 48 → (∀ v ∈ values, v < 65536) → s.Permits p c.tower.val →
    (c.slot = .next ∨ tw.state = .dark ∨ tw.state = .held) → c.Sound tw.z → sl.coverage.length = tw.z → tw.z ≤ 48 →
    let result := if ∃ v ∈ values, 1000 < v then 0x01#8 else 0x00#8
    (c.pointer = none →
      exec (.zonesWrite p (values.flatMap bytes16)) s = .next (s.sendReply p [0x92#8, result, 0x00#8, 0xFF#8])) ∧
    ∀ q, c.pointer = some q →
      let room := if c.direction = .up then c.last + 1 - q else q + 1 - c.first
      let count := min values.length room
      let zoneAt := fun i => if c.direction = .up then q + i else q - i
      let pointer := if room ≤ values.length then none else some (zoneAt count)
      let c' := { c with pointer := pointer }
      let body := [0x92#8, result, BitVec.ofNat 8 count, BitVec.ofNat 8 (pointer.getD 255)]
      ∃ sl' : Slot, sl'.coverage.length = sl.coverage.length ∧ sl'.tag = sl.tag ∧ sl'.mirrored = sl.mirrored ∧
        (∀ i v, i < count → values[i]? = some v → sl'.zone (zoneAt i) =
          if c.mask.getLsbD (zoneAt i) then some (combine c.mode (sl.zone (zoneAt i)) (min v 1000))
          else sl.zone (zoneAt i)) ∧
        (∀ y, (∀ i, i < count → y ≠ zoneAt i) → sl'.zone y = sl.zone y) ∧
        (c.slot = .next → exec (.zonesWrite p (values.flatMap bytes16)) s =
          .next (((s.setCtx p c').setTower c.tower { tw with next := sl' }).sendReply p body)) ∧
        (c.slot = .run → ∃ u, exec (.zonesWrite p (values.flatMap bytes16)) s = .next u ∧
          (u.tower c.tower).run = sl' ∧ (u.tower c.tower).next = tw.next ∧ (u.tower c.tower).config = tw.config ∧
          (u.port p).ctx = c' ∧ (u.port p).cursor = (s.port p).cursor ∧ (u.port p).reply = some body ∧
          (∀ r, r ≠ p → u.port r = s.port r) ∧ SameBut c.tower s u)

/-- A value, clamped into 0..1000, is combined into each masked-in zone of the window as the mode requires, an unwritten zone
counting as 0; the zone is written afterwards, the stored value lies within 0..1000, and the result reports a clamp of the
incoming value alone (R28, by ZONES FILL of R33). -/
def Obligations.ZonesFillCombinesByMode : Prop :=
  ∀ (p : MasterPort) (v : Nat) (s : State), p ≠ .scanner → s.busy p = false → v < 65536 →
    let c := (s.port p).ctx
    let tw := s.tower c.tower
    let sl := tw.slot c.slot
    let inside := fun z => c.first ≤ z ∧ z ≤ c.last ∧ c.mask.getLsbD z = true
    s.Permits p c.tower.val → (c.slot = .next ∨ tw.state = .dark ∨ tw.state = .held) → c.Sound tw.z → sl.Sound tw.z →
    tw.z ≤ 48 →
    let body := [0x93#8, if 1000 < v then 0x01#8 else 0x00#8,
      BitVec.ofNat 8 ((List.range 48).filter fun z => decide (inside z)).length]
    ∃ sl' : Slot, sl'.tag = sl.tag ∧ sl'.mirrored = sl.mirrored ∧ sl'.coverage.length = sl.coverage.length ∧
      (∀ z, inside z → ∃ w, sl'.zone z = some w ∧ w ≤ 1000 ∧
        (c.mode = .replace → w = min v 1000) ∧
        (c.mode = .add → w = min ((sl.zone z).getD 0 + min v 1000) 1000) ∧
        (c.mode = .subtract → w = (sl.zone z).getD 0 - min v 1000) ∧
        (c.mode = .max → w = if min v 1000 ≤ (sl.zone z).getD 0 then (sl.zone z).getD 0 else min v 1000)) ∧
      (∀ z, ¬inside z → sl'.zone z = sl.zone z) ∧
      (c.slot = .next → exec (.zonesFill p (bytes16 v)) s =
        .next ((s.setTower c.tower { tw with next := sl' }).sendReply p body)) ∧
      (c.slot = .run → ∃ u, exec (.zonesFill p (bytes16 v)) s = .next u ∧
        (u.tower c.tower).run = sl' ∧ (u.tower c.tower).next = tw.next ∧ (u.tower c.tower).config = tw.config ∧
        (u.port p).ctx = c ∧ (u.port p).reply = some body ∧ (∀ r, r ≠ p → u.port r = s.port r) ∧ SameBut c.tower s u)

/-- A store into the RUN slot of a PRESETTING or PRINTING tower is refused with STATE, by each of the four storing functions,
even when it would store nothing (R21). -/
def Obligations.RunSlotIsNotWrittenWhileRunning : Prop :=
  (∀ (fn : MasterFn) (p : MasterPort) (args : List Byte) (s : State), fn ∈ [MasterFn.zonesWrite, .zonesFill] →
    p ≠ .scanner → s.busy p = false → LayoutLength fn args.length → s.Permits p (s.port p).ctx.tower.val →
    (s.port p).ctx.slot = .run →
    ((s.tower (s.port p).ctx.tower).state = .presetting ∨ (s.tower (s.port p).ctx.tower).state = .printing) →
    exec (fn.command p args) s = .next (s.sendReply p [fn.code + 0x80#8, 0x08#8])) ∧
  (∀ (p : MasterPort) (t : TowerIx) (b : Byte) (s : State), p ≠ .scanner → s.busy p = false → b.toNat = t.val →
    s.Permits p t.val → ((s.tower t).state = .presetting ∨ (s.tower t).state = .printing) →
    exec (.slotClear p [b, 0x00#8]) s = .next (s.sendReply p [0x96#8, 0x08#8]) ∧
    ∀ (t3 t2 t1 t0 m : Byte), m.toNat ≤ 1 →
      exec (.slotTagSet p [b, 0x00#8, t3, t2, t1, t0, m]) s = .next (s.sendReply p [0x97#8, 0x08#8]))

/-- ZONES READ returns every zone of the window in the context's direction, whatever the mask; ZONES ABOVE returns the zones of
the window that are masked in, written and not below the threshold. Neither changes anything (R34, R35). -/
def Obligations.ZonesAreReadThroughWindow : Prop :=
  ∀ (p : MasterPort) (s : State), s.busy p = false →
    let c := (s.port p).ctx
    let sl := (s.tower c.tower).slot c.slot
    c.Sound (s.tower c.tower).z → sl.Sound (s.tower c.tower).z → (s.tower c.tower).z ≤ 48 →
    (∃ body, exec (.zonesRead p []) s = .next (s.sendReply p body) ∧ body.length = 7 + 2 * (c.last + 1 - c.first) ∧
      body.take 2 = [0x94#8, 0x00#8] ∧ Field8 body 2 c.tower.val ∧ Field8 body 3 (if c.slot = .run then 0 else 1) ∧
      Field8 body 4 c.first ∧ Field8 body 5 c.last ∧ Field8 body 6 (if c.direction = .up then 0 else 1) ∧
      ∀ i, i < c.last + 1 - c.first →
        Field16 body (7 + 2 * i) ((sl.zone (if c.direction = .up then c.first + i else c.last - i)).getD 65535)) ∧
    ∀ threshold, threshold < 65536 →
      ∃ body, exec (.zonesAbove p (bytes16 threshold)) s = .next (s.sendReply p body) ∧ body.length = 8 ∧
        body.take 2 = [0x95#8, 0x00#8] ∧
        FieldSet body 2 fun z => decide (c.first ≤ z ∧ z ≤ c.last) && c.mask.getLsbD z &&
          decide (∃ v ∈ sl.zone z, threshold ≤ v)

/-- SLOT CLEAR makes every zone unwritten, the tag absent and the mirrored flag clear; SLOT TAG SET sets tag and flag and
leaves the coverage. A tower outside 0..11, a slot outside RUN and NEXT and a mirrored byte above 1 are refused with RANGE. On
NEXT nothing else changes, and no write context ever does. On RUN in DARK or HELD, a slot that leaves COMPLETE leaves every
target, every effective coverage and the sweep absent and the queue empty, and nothing else changed; a changed flag refreshes
every key from the new mapping, with the CURVE_INCOMPLETE fault of such a refresh: in HELD the queued keys that are now at their
targets leave the queue and the IDLE keys whose target steps changed join it, and nothing is sent (R5, R22, R36, R37, R61, R62,
R126). -/
def Obligations.SlotClearAndTagSet : Prop :=
  (∀ (p : MasterPort) (t : TowerIx) (b : Byte) (s : State), p ≠ .scanner → s.busy p = false → b.toNat = t.val →
    s.Permits p t.val →
    let tw := s.tower t
    let cleared := fun sl : Slot =>
      ({ coverage := sl.coverage.map fun _ => none, tag := none, mirrored := false } : Slot)
    exec (.slotClear p [b, 0x01#8]) s =
      .next ((s.setTower t { tw with next := cleared tw.next }).sendReply p [0x96#8, 0x00#8]) ∧
    (tw.state = .dark ∨ tw.state = .held → tw.keys.length = tw.z → tw.QueueSound →
      let emptied := { tw with
        run := cleared tw.run
        sweep := none
        queue := []
        keys := tw.keys.map fun key : KeyRec =>
          { key with
            target := none
            effective := none
            drive := match key.drive with
              | .queued q => .idle q
              | d => d } }
      (tw.run.complete = true ∨ tw.run.mirrored = true →
        exec (.slotClear p [b, 0x00#8]) s = .next ((s.setTower t emptied).sendReply p [0x96#8, 0x00#8])) ∧
      (tw.run.complete = false → tw.run.mirrored = false →
        exec (.slotClear p [b, 0x00#8]) s =
          .next ((s.setTower t { tw with run := cleared tw.run }).sendReply p [0x96#8, 0x00#8])))) ∧
  (∀ (p : MasterPort) (b n t3 t2 t1 t0 m : Byte) (s : State), p ≠ .scanner → s.busy p = false →
    (∀ t : TowerIx, b.toNat = t.val → s.Permits p t.val) →
    (12 ≤ b.toNat ∨ 2 ≤ n.toNat → exec (.slotClear p [b, n]) s = .next (s.sendReply p [0x96#8, 0x07#8])) ∧
    (12 ≤ b.toNat ∨ 2 ≤ n.toNat ∨ 2 ≤ m.toNat →
      exec (.slotTagSet p [b, n, t3, t2, t1, t0, m]) s = .next (s.sendReply p [0x97#8, 0x07#8]))) ∧
  ∀ (p : MasterPort) (t : TowerIx) (b t3 t2 t1 t0 m : Byte) (s : State), p ≠ .scanner → s.busy p = false →
    b.toNat = t.val → s.Permits p t.val → m.toNat ≤ 1 →
    let tw := s.tower t
    let tagged := fun sl : Slot => { sl with tag := some (t3 ++ t2 ++ t1 ++ t0), mirrored := decide (m.toNat = 1) }
    exec (.slotTagSet p [b, 0x01#8, t3, t2, t1, t0, m]) s =
      .next ((s.setTower t { tw with next := tagged tw.next }).sendReply p [0x97#8, 0x00#8]) ∧
    (tw.state = .dark ∨ tw.state = .held →
      (tw.run.mirrored = decide (m.toNat = 1) →
        exec (.slotTagSet p [b, 0x00#8, t3, t2, t1, t0, m]) s =
          .next ((s.setTower t { tw with run := tagged tw.run }).sendReply p [0x97#8, 0x00#8])) ∧
      (tw.run.mirrored ≠ decide (m.toNat = 1) → tw.keys.length = tw.z → tw.QueueSound →
        ∃ u, exec (.slotTagSet p [b, 0x00#8, t3, t2, t1, t0, m]) s = .next u ∧ SameBut t s u ∧
          u.masters = (s.sendReply p [0x97#8, 0x00#8]).masters ∧
          let tw' := u.tower t
          u.faults = s.faultsAfter t tw' ∧ tw'.PresetsCurrent u.curves ∧
          tw' = { tw with run := tagged tw.run, keys := tw'.keys, queue := tw'.queue, sweep := tw'.sweep } ∧
          tw'.queue = (if tw.state = .held then tw.lineAfter tw' else []) ∧ tw'.keys.length = tw.keys.length ∧
          ∀ (k : Nat) (key : KeyRec), tw.keys[k]? = some key → ∃ key' : KeyRec, tw'.keys[k]? = some key' ∧
            key'.trim = key.trim ∧ key'.acc = key.acc ∧ key'.settleUntil = key.settleUntil ∧
            key'.drive.position = key.drive.position ∧
            (tw.run.complete = true → (s.curve (tw.curveOf k)).length < 2 →
              key'.target = key.target.map (heldOf tw.config)) ∧
            (key.drive.state ∈ [DriveState.unknown, .moving, .faulted] → key'.drive = key.drive) ∧
            (key.drive.state ∈ [DriveState.idle, .queued] →
              key'.drive.state = if k ∈ tw'.queue then .queued else .idle)))

/-! ### Ink characteristic curves -/

/-- CURVE SELECT places the cursor, drops a held word and resets the last operation; CURVE GET returns the points from the
index on, as many as n and as exist, and moves the index past them. Both touch the port's own cursor alone, answer with it,
and refuse what lies out of range (R45, R46, R52). -/
def Obligations.CurveSelectAndGet : Prop :=
  (∀ (p : MasterPort) (c : CurveIx) (b i : Byte) (s : State), s.busy p = false → b.toNat = c.val → i.toNat ≤ 12 →
    (s.curve c).length ≤ 12 →
    let cur := { curve := c, index := i.toNat, phase := .even, lastOp := .none : Cursor }
    ∃ body, exec (.curveSelect p [b, i]) s = .next ((s.setCursor p cur).sendReply p body) ∧ body.length = 9 ∧
      body.take 2 = [0x98#8, 0x00#8] ∧ CursorFields body 2 cur (s.curve c).length) ∧
  (∀ (p : MasterPort) (b i : Byte) (s : State), s.busy p = false → (16 ≤ b.toNat ∨ 12 < i.toNat) →
    exec (.curveSelect p [b, i]) s = .next (s.sendReply p [0x98#8, 0x07#8])) ∧
  (∀ (p : MasterPort) (n : Byte) (s : State), s.busy p = false → 1 ≤ n.toNat → n.toNat ≤ 12 → s.CurvesSound →
    let c := (s.port p).cursor
    let points := s.curve c.curve
    let returned := min n.toNat (points.length - c.index)
    let c' := { c with index := c.index + returned, phase := .even, lastOp := .read }
    ∃ body, exec (.curveGet p [n]) s = .next ((s.setCursor p c').sendReply p body) ∧
      body.length = 10 + 4 * returned ∧ body.take 2 = [0x9A#8, 0x00#8] ∧ Field8 body 2 returned ∧
      CursorFields body 3 c' points.length ∧
      ∀ i q, i < returned → points[c.index + i]? = some q →
        Field16 body (10 + 4 * i) q.coverage ∧ Field16 body (12 + 4 * i) q.opening) ∧
  ∀ (p : MasterPort) (n : Byte) (s : State), s.busy p = false → (n.toNat = 0 ∨ 12 < n.toNat) →
    exec (.curveGet p [n]) s = .next (s.sendReply p [0x9A#8, 0x07#8])

/-- One word of a CURVE PUT: a word above 1000 fails with RANGE; in EVEN a word is held; in HALF it completes a point, which is
committed at the index, appended or replacing, unless one of the four conditions of R49 fails it with ORDER (R48, R49, R50). -/
def Obligations.CurvePutTakesOneWord : Prop :=
  ∀ (p : MasterPort) (w : Nat) (s : State), p ≠ .scanner → s.busy p = false → s.Permits p 12 → w < 65536 → s.CurvesSound →
    let c := (s.port p).cursor
    let points := s.curve c.curve
    let put := fun (s' : State) (result committed : Byte) (c' : Cursor) (count : Nat) =>
      ∃ body, exec (.curvePut p (bytes16 w)) s = .next (s'.sendReply p body) ∧ body.length = 10 ∧
        body.take 3 = [0x99#8, result, committed] ∧ CursorFields body 3 c' count
    (1000 < w → put (s.setCursor p { c with phase := .even }) 0x07#8 0x00#8 { c with phase := .even } points.length) ∧
    (w ≤ 1000 → c.phase = .even →
      put (s.setCursor p { c with phase := .half w }) 0x00#8 0x00#8 { c with phase := .half w } points.length) ∧
    ∀ held, w ≤ 1000 → c.phase = .half held →
      let fails := points.length < c.index ∨ c.index = 12 ∨
        (∃ q, 0 < c.index ∧ points[c.index - 1]? = some q ∧ held ≤ q.coverage) ∨
        ∃ q, points[c.index + 1]? = some q ∧ q.coverage ≤ held
      (fails → put (s.setCursor p { c with phase := .even }) 0x0C#8 0x00#8 { c with phase := .even } points.length) ∧
      (¬fails →
        let c' := { c with index := c.index + 1, phase := .even, lastOp := .write }
        let points' := if c.index = points.length then points ++ [{ coverage := held, opening := w }]
          else points.set c.index { coverage := held, opening := w }
        ∃ u body, exec (.curvePut p (bytes16 w)) s = .next u ∧ (u.port p).reply = some body ∧ body.length = 10 ∧
          body.take 3 = [0x99#8, 0x00#8, 0x01#8] ∧ CursorFields body 3 c' points'.length ∧ (u.port p).cursor = c' ∧
          (u.port p).ctx = (s.port p).ctx ∧ (∀ q, q ≠ p → u.port q = s.port q) ∧ u.curve c.curve = points' ∧
          (∀ d, d ≠ c.curve → u.curve d = s.curve d) ∧ u.pending = s.pending ∧ u.sheets = s.sheets ∧ u.access = s.access ∧
          u.restartPending = s.restartPending ∧
          ∀ t, (s.tower t).config.metering.curveA ≠ c.curve → (s.tower t).config.metering.curveB ≠ c.curve →
            u.tower t = s.tower t)

/-- The words of a CURVE PUT are taken in message order, the first failure ends the request, and a held word survives the end
of a message: two messages have together the effect of one that carries the words of both, and a message whose first part
fails has the effect of that part (R43, R48, R50). -/
def Obligations.CurvePutTakesWordsInOrder : Prop :=
  ∀ (p : MasterPort) (ws ws' : List Nat) (s : State), p ≠ .scanner → s.busy p = false → s.Permits p 12 → 1 ≤ ws.length →
    1 ≤ ws'.length → ws.length + ws'.length ≤ 62 → (∀ w ∈ ws ++ ws', w < 65536) →
    ∃ u n r block, exec (.curvePut p (ws.flatMap bytes16)) s = .next u ∧
      (u.port p).reply = some (0x99#8 :: r :: BitVec.ofNat 8 n :: block) ∧
      (r ≠ 0x00#8 → exec (.curvePut p ((ws ++ ws').flatMap bytes16)) s = .next u) ∧
      (r = 0x00#8 → ∃ v w n' r' block',
        exec (.curvePut p (ws'.flatMap bytes16)) (u.release p) = .next v ∧
        (v.port p).reply = some (0x99#8 :: r' :: BitVec.ofNat 8 n' :: block') ∧
        exec (.curvePut p ((ws ++ ws').flatMap bytes16)) s = .next w ∧
        (w.port p).reply = some (0x99#8 :: r' :: BitVec.ofNat 8 (n + n') :: block') ∧ w.release p = v.release p)

/-- CURVE CLEAR empties a curve, resets every port's cursor that names it, and refreshes the towers that name it; other curves,
other cursors and other towers stay (R53). In a tower whose RUN slot is COMPLETE every key on the cleared side holds its target,
limited anew, and its effective coverage is written; where the targets held lie within the limits with their steps, nothing is
handed on and nothing else of the tower changes; every such tower with a key on the cleared side logs one CURVE_INCOMPLETE fault,
in ascending order (R61, R62, R72). A curve outside 0..15 is refused. -/
def Obligations.CurveClearEmptiesCurve : Prop :=
  (∀ (p : MasterPort) (c : CurveIx) (b : Byte) (s : State), p ≠ .scanner → s.busy p = false → s.Permits p 12 →
    b.toNat = c.val → s.CurvesSound →
    ∃ u body, exec (.curveClear p [b]) s = .next u ∧ (u.port p).reply = some body ∧ body.length = 9 ∧
      body.take 2 = [0x9B#8, 0x00#8] ∧ CursorFields body 2 (u.port p).cursor (u.curve (u.port p).cursor.curve).length ∧
      u.curve c = [] ∧ (∀ d, d ≠ c → u.curve d = s.curve d) ∧
      (∀ q, (u.port q).ctx = (s.port q).ctx ∧
        (q ≠ p → (u.port q).reply = (s.port q).reply ∧ (u.port q).framer = (s.port q).framer) ∧
        ((s.port q).cursor.curve = c → (u.port q).cursor = { curve := c, index := 0, phase := .even, lastOp := .none }) ∧
        ((s.port q).cursor.curve ≠ c → (u.port q).cursor = (s.port q).cursor)) ∧
      u.pending = s.pending ∧ u.sheets = s.sheets ∧ u.access = s.access ∧ u.restartPending = s.restartPending ∧
      let side := fun (t : TowerIx) (k : Nat) =>
        let m := (s.tower t).config.metering
        (if k < m.split then m.curveA else m.curveB) = c
      u.faults = ((List.finRange 12).filter fun t =>
          (s.tower t).run.complete && (List.range (s.tower t).z).any fun k => decide (side t k)).foldl
        (fun l t => l.log .curveIncomplete (.tower t) s.sheets) s.faults ∧
      ∀ t,
        let tw := s.tower t
        let tw' := u.tower t
        (tw.config.metering.curveA ≠ c → tw.config.metering.curveB ≠ c → tw' = tw) ∧
        (tw.keys.length = tw.z →
          tw.SamePlates tw' ∧ tw'.keys.length = tw.keys.length ∧
          (∀ (k : Nat) (key : KeyRec), tw.keys[k]? = some key → ∃ key' : KeyRec, tw'.keys[k]? = some key' ∧
            key'.trim = key.trim ∧ key'.acc = key.acc ∧ key'.settleUntil = key.settleUntil ∧
            key'.drive.position = key.drive.position ∧
            (¬side t k → key'.target = key.target ∧ key'.effective = key.effective) ∧
            (side t k → tw.run.complete = true →
              key'.target = key.target.map (heldOf tw.config) ∧ key'.effective = some (tw.effectiveCoverage k)) ∧
            (side t k → tw.run.complete = false → key'.target = none ∧ key'.effective = none)) ∧
          (tw.run.complete = true → tw.config.Sound → tw.TargetsSound → tw' = { tw with
            keys := tw.keys.mapIdx fun k (key : KeyRec) =>
              if side t k then { key with effective := some (tw.effectiveCoverage k) } else key }) ∧
          (tw.run.complete = false → (∀ key ∈ tw.keys, key.target = none ∧ key.effective = none) → tw' = tw))) ∧
  ∀ (p : MasterPort) (b : Byte) (s : State), p ≠ .scanner → s.busy p = false → s.Permits p 12 → 16 ≤ b.toNat →
    exec (.curveClear p [b]) s = .next (s.sendReply p [0x9B#8, 0x07#8])

/-! ### Preset computation -/

/-- Key k lies under zone k, or under zone Z-1-k when exactly one of the RUN slot's mirrored flag and the tower's reversed flag is
set; every zone lies under exactly one key; the engine takes the coverage under a key by this mapping; the NEXT slot governs
nothing until JOB CHANGE moves its flag with its coverage (R4). -/
def Obligations.ZoneMapping : Prop :=
  ∀ tw : Tower,
    let m := xor tw.run.mirrored tw.config.geometry.reversed
    (∀ k, k < tw.z → tw.zoneOf k = if m = true then tw.z - 1 - k else k) ∧
    (∀ k, k < tw.z → tw.zoneOf k < tw.z) ∧
    (∀ z, z < tw.z → ∃ k, (k < tw.z ∧ tw.zoneOf k = z) ∧ ∀ k', k' < tw.z → tw.zoneOf k' = z → k' = k) ∧
    (∀ k v, k < tw.z → tw.run.coverage[tw.zoneOf k]? = some (some v) → tw.coverageUnder k = v) ∧
    (∀ (next : Slot) k, ({ tw with next := next }).zoneOf k = tw.zoneOf k ∧
      ({ tw with next := next }).coverageUnder k = tw.coverageUnder k) ∧
    tw.movePlate.run = tw.next

/-- The effective coverage of a key is the weighted mean of the coverages under the keys at most two away in its region, the
duct's ends and the split as walls, rounded half up (R59); the looked-up opening is the first, the last, or on the line
between two points, rounded half away from zero, and never outside them (R60). -/
def Obligations.EffectiveCoverageAndLookup : Prop :=
  (∀ (tw : Tower) (k : Nat), tw.config.Sound → tw.run.Sound tw.z → k < tw.z →
    let m := tw.config.metering
    let inRegion := fun j : Int => decide (0 ≤ j ∧ j < tw.z ∧ (j < m.split ↔ k < m.split))
    let weight := fun (d : Int) (w : Nat) => if inRegion (k + d) then w else 0
    let part := fun (d : Int) (w : Nat) => weight d w * tw.coverageUnder (k + d).toNat
    let n := part (-2) m.w2 + part (-1) m.w1 + part 0 m.w0 + part 1 m.w1 + part 2 m.w2
    let d := weight (-2) m.w2 + weight (-1) m.w1 + weight 0 m.w0 + weight 1 m.w1 + weight 2 m.w2
    tw.effectiveCoverage k = (2 * n + d) / (2 * d) ∧ tw.effectiveCoverage k ≤ 1000 ∧ 1 ≤ d) ∧
  ∀ (points : List Point) (e : Nat), CurveSound points → 2 ≤ points.length →
    openingAt points e ≤ 1000 ∧
    (∀ q, points[0]? = some q → e < q.coverage → openingAt points e = q.opening) ∧
    (∀ q, points[points.length - 1]? = some q → q.coverage ≤ e → openingAt points e = q.opening) ∧
    ∀ (i : Nat) (q r : Point), points[i]? = some q → points[i + 1]? = some r → q.coverage ≤ e → e < r.coverage →
      let run := r.coverage - q.coverage
      let moved := fun rise : Nat => (2 * (rise * (e - q.coverage)) + run) / (2 * run)
      (q.opening ≤ r.opening →
        openingAt points e = q.opening + moved (r.opening - q.opening) ∧ openingAt points e ≤ r.opening) ∧
      (r.opening < q.opening →
        openingAt points e = q.opening - moved (q.opening - r.opening) ∧ r.opening ≤ openingAt points e)

/-- A ZONES FILL that makes the RUN slot of a DARK tower COMPLETE with one value presets the whole tower: every key's effective
coverage is the value, every key of a USABLE curve gets its target, the sweep follows, no key is queued and nothing is sent,
and one CURVE_INCOMPLETE fault is logged exactly where a key has an INCOMPLETE curve (R22, R55 to R68, R70). -/
def Obligations.CompletingRunPresets : Prop :=
  ∀ (p : MasterPort) (v : Nat) (s : State), p ≠ .scanner → s.busy p = false → v < 65536 →
    let c := (s.port p).ctx
    let t := c.tower
    let tw := s.tower t
    let m := tw.config.metering
    let e := min v 1000
    let curveOf := fun k => s.curve (if k < m.split then m.curveA else m.curveB)
    s.Permits p t.val → c.slot = .run → c.mode = .replace → c.first = 0 → c.last = tw.z - 1 →
    (∀ z, z < tw.z → c.mask.getLsbD z = true) → tw.state = .dark → tw.run.complete = false → tw.ShapeSound →
    tw.QueueSound →
    ∃ u, exec (.zonesFill p (bytes16 v)) s = .next u ∧ SameBut t s u ∧ tw.SamePlates
        { u.tower t with run := tw.run, sweep := tw.sweep } ∧
      (u.port p).reply = some [0x93#8, if 1000 < v then 0x01#8 else 0x00#8, BitVec.ofNat 8 tw.z] ∧
      (u.tower t).run = { tw.run with coverage := List.replicate tw.z (some e) } ∧ (u.tower t).state = .dark ∧
      (u.tower t).queue = tw.queue ∧ (u.tower t).moving = tw.moving ∧ (u.tower t).port = tw.port ∧
      (u.tower t).lastSweep = tw.lastSweep ∧
      (u.tower t).sweep = some (max 5 (min 100 (m.sweepBase + (2 * m.sweepGain * e + 1000) / 2000))) ∧
      (∀ k key, tw.keys[k]? = some key → ∃ key' : KeyRec, (u.tower t).keys[k]? = some key' ∧
        key'.effective = some e ∧ key'.drive = key.drive ∧ key'.trim = key.trim ∧ key'.acc = key.acc ∧
        key'.settleUntil = key.settleUntil ∧
        (2 ≤ (curveOf k).length → key'.target =
          some (targetOf tw.config (openingFor m e (openingAt (curveOf k) e) key.trim key.acc))) ∧
        ((curveOf k).length < 2 → key.target = none → key'.target = none)) ∧
      ((∃ k, k < tw.z ∧ (curveOf k).length < 2) → u.faults = s.faults.log .curveIncomplete (.tower t) s.sheets) ∧
      ((∀ k, k < tw.z → 2 ≤ (curveOf k).length) → u.faults = s.faults)

/-! ### Operator trims -/

/-- TRIM SET and TRIM NUDGE take their entries in message order: each trim becomes the entry's value, or the trim as it stands
plus its count, limited to -300..+300; the reply gives the trim each entry left, OK_CLAMPED where an entry was limited; a key
of Z or more refuses the whole request (R79 to R82, R84). The count is the low six bits of its byte, two's complement (R83). -/
def Obligations.TrimsAreTakenInOrder : Prop :=
  let trimOf := fun (tw : Tower) (k : Nat) => ((tw.keys[k]?.map KeyRec.trim).getD 0)
  let taken := fun (add : Bool) (code : Byte) (t : TowerIx) (b : Byte) (entries : List (Nat × Int)) (s u : State) =>
    let tw := s.tower t
    (∀ k key, tw.keys[k]? = some key → ∃ key' : KeyRec, (u.tower t).keys[k]? = some key' ∧
      key'.trim = trimsAfter add (trimOf tw) entries k ∧ key'.acc = key.acc ∧ key'.settleUntil = key.settleUntil) ∧
    (u.tower t).keys.length = tw.keys.length ∧ tw.SamePlates (u.tower t) ∧ SameBut t s u ∧
    (∀ q, (u.port q).ctx = (s.port q).ctx ∧ (u.port q).cursor = (s.port q).cursor) ∧
    ∃ body r, (u.port .console).reply = some body ∧ body.length = 3 + 2 * entries.length ∧ body.take 3 = [code, r, b] ∧
      (trimClamped add (trimOf tw) entries → r = 0x01#8) ∧ (¬trimClamped add (trimOf tw) entries → r = 0x00#8) ∧
      ∀ i k x, entries[i]? = some (k, x) →
        FieldSigned16 body (3 + 2 * i) (trimsAfter add (trimOf tw) (entries.take (i + 1)) k)
  (∀ (b : Byte) (args : List Byte) (s : State), s.busy .console = false → 12 ≤ b.toNat →
    (LayoutLength .trimSet (args.length + 1) →
      exec (.trimSet .console (b :: args)) s = .next (s.sendReply .console [0xB6#8, 0x07#8])) ∧
    (LayoutLength .trimNudge (args.length + 1) →
      exec (.trimNudge .console (b :: args)) s = .next (s.sendReply .console [0xB7#8, 0x07#8]))) ∧
  (∀ (t : TowerIx) (b : Byte) (entries : List (Byte × Int)) (s : State), s.busy .console = false → b.toNat = t.val →
    1 ≤ entries.length → entries.length ≤ 48 → (∀ e ∈ entries, -32768 ≤ e.2 ∧ e.2 ≤ 32767) →
    (s.tower t).keys.length = (s.tower t).z → (∀ key ∈ (s.tower t).keys, key.CorrectionsSound) →
    let args := b :: entries.flatMap fun e => e.1 :: bytesSigned16 e.2
    ((∀ e ∈ entries, e.1.toNat < (s.tower t).z) → ∃ u, exec (.trimSet .console args) s = .next u ∧
      taken false 0xB6#8 t b (entries.map fun e => (e.1.toNat, e.2)) s u) ∧
    ((∃ e ∈ entries, (s.tower t).z ≤ e.1.toNat) →
      exec (.trimSet .console args) s = .next (s.sendReply .console [0xB6#8, 0x07#8]))) ∧
  ∀ (t : TowerIx) (b : Byte) (entries : List (Byte × Byte)) (s : State), s.busy .console = false → b.toNat = t.val →
    1 ≤ entries.length → entries.length ≤ 48 → (s.tower t).keys.length = (s.tower t).z →
    (∀ key ∈ (s.tower t).keys, key.CorrectionsSound) →
    let args := b :: entries.flatMap fun e => [e.1, e.2]
    let count := fun c : Byte => if c.toNat % 64 < 32 then ((c.toNat % 64 : Nat) : Int) else (c.toNat % 64 : Nat) - 64
    ((∀ e ∈ entries, e.1.toNat < (s.tower t).z) → ∃ u, exec (.trimNudge .console args) s = .next u ∧
      taken true 0xB7#8 t b (entries.map fun e => (e.1.toNat, count e.2)) s u) ∧
    ((∃ e ∈ entries, (s.tower t).z ≤ e.1.toNat) →
      exec (.trimNudge .console args) s = .next (s.sendReply .console [0xB7#8, 0x07#8]))

/-- A trim reaches its key's target: in a DARK tower with a COMPLETE RUN slot a changed trim gives the key its computed target on
a USABLE curve, and on an INCOMPLETE one its held target with one CURVE_INCOMPLETE fault; an unchanged trim changes nothing in
any state (R61 to R67, R73, R78, R80). -/
def Obligations.TrimReachesTarget : Prop :=
  ∀ (t : TowerIx) (b kb : Byte) (v : Int) (key : KeyRec) (s : State), s.busy .console = false → b.toNat = t.val →
    let k := kb.toNat
    let tw := s.tower t
    let m := tw.config.metering
    let points := s.curve (if k < m.split then m.curveA else m.curveB)
    let e := tw.effectiveCoverage k
    let args := b :: kb :: bytesSigned16 v
    let answered := fun s' : State => s'.sendReply .console (0xB6#8 :: 0x00#8 :: b :: bytesSigned16 v)
    let given := fun target : Option Target =>
      s.setTower t { tw with keys := tw.keys.set k { key with trim := v, effective := some e, target := target } }
    k < tw.z → tw.keys[k]? = some key → -300 ≤ v → v ≤ 300 →
    (v = key.trim → exec (.trimSet .console args) s = .next (answered s)) ∧
    (v ≠ key.trim → tw.state = .dark → key.drive.state ≠ .queued → tw.run.complete = true →
      (2 ≤ points.length → exec (.trimSet .console args) s = .next (answered
        (given (some (targetOf tw.config (openingFor m e (openingAt points e) v key.acc)))))) ∧
      (points.length < 2 → exec (.trimSet .console args) s = .next (answered
        ((given (key.target.map (heldOf tw.config))).logFault .curveIncomplete (.tower t)))))

/-! ### Closed-loop density correction -/

/-- MEASURE refuses a tower outside 0..11, a key of Z or more and a sheet after the count with RANGE (R98). Outside PRINTING or
with the loop off every entry is state-skipped (R99). In PRINTING with the loop on an entry of a key that is not IDLE is
state-skipped, of a sheet before the key's window settle-skipped, within the deadband deadband-skipped, else applied (R96, R100).
The counts of the reply sum to the entries, and the tower's counters rise by them up to 65535 (R102, R104). The entries of a
message are taken in order, each against the state the earlier ones left: two messages have together the effect of one that
carries the entries of both, and its counts are the sums of theirs (R100, R101). -/
def Obligations.MeasureIsGatedAndCounted : Prop :=
  (∀ (p : MasterPort) (t : TowerIx) (b : Byte) (sheet : Sheet) (first rest : List (Byte × Int)) (s : State),
    s.busy p = false → b.toNat = t.val → s.Permits p t.val → 1 ≤ first.length → 1 ≤ rest.length →
    first.length + rest.length ≤ 48 → (∀ e ∈ first ++ rest, -32768 ≤ e.2 ∧ e.2 ≤ 32767 ∧ e.1.toNat < (s.tower t).z) →
    (s.sheets.toNat + 2 ^ 32 - sheet.toNat) % 2 ^ 32 < 2 ^ 31 →
    let measure := fun (entries : List (Byte × Int)) (s' : State) =>
      exec (.measure p (b :: (bytes32 sheet ++ entries.flatMap fun e => e.1 :: bytesSigned16 e.2))) s'
    let answer := fun (r : Byte) (n : LoopCounters) =>
      [0xA0#8, r, BitVec.ofNat 8 n.applied, BitVec.ofNat 8 n.settleSkipped, BitVec.ofNat 8 n.deadbandSkipped,
       BitVec.ofNat 8 n.stateSkipped]
    ∃ (u v w : State) (r r' : Byte) (n n' : LoopCounters),
      measure first s = .next u ∧ (u.port p).reply = some (answer r n) ∧
      n.applied + n.settleSkipped + n.deadbandSkipped + n.stateSkipped = first.length ∧
      measure rest (u.release p) = .next v ∧ (v.port p).reply = some (answer r' n') ∧
      n'.applied + n'.settleSkipped + n'.deadbandSkipped + n'.stateSkipped = rest.length ∧
      measure (first ++ rest) s = .next w ∧
      (w.port p).reply = some (answer (if r = 0x01#8 then 0x01#8 else r')
        { applied := n.applied + n'.applied
          settleSkipped := n.settleSkipped + n'.settleSkipped
          deadbandSkipped := n.deadbandSkipped + n'.deadbandSkipped
          stateSkipped := n.stateSkipped + n'.stateSkipped }) ∧
      w.release p = v.release p) ∧
  ∀ (p : MasterPort) (b : Byte) (sheet : Sheet) (entries : List (Byte × Int)) (s : State), s.busy p = false →
    1 ≤ entries.length → entries.length ≤ 48 → (∀ e ∈ entries, -32768 ≤ e.2 ∧ e.2 ≤ 32767) →
    let args := b :: (bytes32 sheet ++ entries.flatMap fun e => e.1 :: bytesSigned16 e.2)
    let refused := exec (.measure p args) s = .next (s.sendReply p [0xA0#8, 0x07#8])
    let r := if ∃ e ∈ entries, e.2 < -1000 ∨ 1000 < e.2 then 0x01#8 else 0x00#8
    (12 ≤ b.toNat → refused) ∧
    ∀ t : TowerIx, b.toNat = t.val → s.Permits p t.val → (s.tower t).counters.Sound →
      (s.tower t).keys.length = (s.tower t).z →
      let tw := s.tower t
      let counted := fun n : LoopCounters =>
        (s.setTower t { tw with counters :=
          { applied := min 65535 (tw.counters.applied + n.applied)
            settleSkipped := min 65535 (tw.counters.settleSkipped + n.settleSkipped)
            deadbandSkipped := min 65535 (tw.counters.deadbandSkipped + n.deadbandSkipped)
            stateSkipped := min 65535 (tw.counters.stateSkipped + n.stateSkipped) } }).sendReply p
          [0xA0#8, r, BitVec.ofNat 8 n.applied, BitVec.ofNat 8 n.settleSkipped, BitVec.ofNat 8 n.deadbandSkipped,
           BitVec.ofNat 8 n.stateSkipped]
      let running := tw.state = .printing ∧ tw.config.loop.enable = true
      (((∃ e ∈ entries, tw.z ≤ e.1.toNat) ∨ 2 ^ 31 ≤ (s.sheets.toNat + 2 ^ 32 - sheet.toNat) % 2 ^ 32) → refused) ∧
      ((∀ e ∈ entries, e.1.toNat < tw.z) → (s.sheets.toNat + 2 ^ 32 - sheet.toNat) % 2 ^ 32 < 2 ^ 31 →
        (¬running → exec (.measure p args) s = .next (counted
          { applied := 0, settleSkipped := 0, deadbandSkipped := 0, stateSkipped := entries.length })) ∧
        (∃ (u : State) (n : LoopCounters), exec (.measure p args) s = .next u ∧
          n.applied + n.settleSkipped + n.deadbandSkipped + n.stateSkipped = entries.length ∧
          (u.tower t).counters = ((counted n).tower t).counters ∧ (u.port p).reply = ((counted n).port p).reply ∧
          SameBut t s u) ∧
        ∀ (kb : Byte) (x : Int) (key : KeyRec), running → entries = [(kb, x)] → tw.keys[kb.toNat]? = some key →
          let dev := max (-1000) (min 1000 x)
          let early := 2 ^ 31 ≤ (sheet.toNat + 2 ^ 32 - key.settleUntil.toNat) % 2 ^ 32
          let acc := max (-200) (min 200 (key.acc + correctionOf tw.config.loop dev))
          let one := fun a b c d : Nat =>
            { applied := a, settleSkipped := b, deadbandSkipped := c, stateSkipped := d : LoopCounters }
          (key.drive.state ≠ .idle → exec (.measure p args) s = .next (counted (one 0 0 0 1))) ∧
          (key.drive.state = .idle → early → exec (.measure p args) s = .next (counted (one 0 1 0 0))) ∧
          (key.drive.state = .idle → ¬early → dev.natAbs ≤ tw.config.loop.deadband →
            exec (.measure p args) s = .next (counted (one 0 0 1 0))) ∧
          (key.drive.state = .idle → ¬early → tw.config.loop.deadband < dev.natAbs →
            (acc = key.acc → exec (.measure p args) s = .next (counted (one 1 0 0 0))) ∧
            ∃ (u : State) (key' : KeyRec), exec (.measure p args) s = .next u ∧
              (u.tower t).keys[kb.toNat]? = some key' ∧ key'.acc = acc ∧ key'.trim = key.trim ∧
              key'.settleUntil = key.settleUntil ∧ (u.port p).reply = ((counted (one 1 0 0 0)).port p).reply))

/-- An applied measurement of a key at its target moves the key: its target follows the accumulator; where its motor steps
change, the key is sent its MOVE at once while a motor slot is free and no key waits, and is queued while none is; the tower
stays PRINTING (R96, R97, R126, R127). -/
def Obligations.MeasureMovesKey : Prop :=
  ∀ (p : MasterPort) (t : TowerIx) (b kb : Byte) (sheet : Sheet) (x : Int) (q : Nat) (key : KeyRec) (s : State),
    s.busy p = false → b.toNat = t.val → s.Permits p t.val → -1000 ≤ x → x ≤ 1000 →
    let k := kb.toNat
    let tw := s.tower t
    let m := tw.config.metering
    let points := s.curve (if k < m.split then m.curveA else m.curveB)
    let e := tw.effectiveCoverage k
    let acc := max (-200) (min 200 (key.acc + correctionOf tw.config.loop x))
    let g := targetOf tw.config (openingFor m e (openingAt points e) key.trim acc)
    let key' := { key with acc := acc, effective := some e, target := some g }
    let left := fun tw' : Tower => exec (.measure p (b :: (bytes32 sheet ++ kb :: bytesSigned16 x))) s =
      .next ((s.setTower t { tw' with counters := { tw.counters with applied := min 65535 (tw.counters.applied + 1) } }).sendReply
        p [0xA0#8, 0x00#8, 0x01#8, 0x00#8, 0x00#8, 0x00#8])
    k < tw.z → tw.keys[k]? = some key → key.drive = .idle q → key.target.map Target.steps = some q →
    tw.state = .printing → tw.config.loop.enable = true → tw.run.complete = true → 2 ≤ points.length →
    tw.counters.Sound → (s.sheets.toNat + 2 ^ 32 - sheet.toNat) % 2 ^ 32 < 2 ^ 31 →
    (sheet.toNat + 2 ^ 32 - key.settleUntil.toNat) % 2 ^ 32 < 2 ^ 31 → tw.config.loop.deadband < x.natAbs →
    acc ≠ key.acc →
    (g.steps = q → left { tw with keys := tw.keys.set k key' }) ∧
    (g.steps ≠ q → tw.queue = [] → tw.moving < tw.config.drive.concurrency →
      left { tw with
        keys := tw.keys.set k { key' with drive := .moving q g.steps tw.config.drive.moveTimeout }
        moving := tw.moving + 1
        port := tw.port.send (.move k g.steps) }) ∧
    (g.steps ≠ q → tw.config.drive.concurrency ≤ tw.moving →
      left { tw with keys := tw.keys.set k { key' with drive := .queued q }, queue := tw.queue ++ [k] })

/-! ### The configuration record -/

/-- CONFIG SET refuses a tower outside 0..11, a flag or a curve outside its encodings and any field but scale outside its range
with RANGE, with scale clamped (R12), and with STATE a change of geometry outside DARK and a change of C outside DARK or while a
key is MOVING (R13). A record that changes only drive and loop fields changes the record alone, in every tower state (R10, R14).
Where each field stands among the 29 bytes is the model's reading, log entry 6. -/
def Obligations.ConfigSetIsChecked : Prop :=
  ∀ (b : Byte) (record : List Byte) (s : State), s.busy .console = false → record.length = 29 →
    let answer := exec (.configSet .console (b :: record)) s
    let refused := fun r : Byte => answer = .next (s.sendReply .console [0xB0#8, r])
    (12 ≤ b.toNat → refused 0x07#8) ∧
    ((¬∃ c : TowerConfig, ConfigFields record c) → refused 0x07#8) ∧
    ∀ c : TowerConfig, ConfigFields record c → (¬c.InTable → refused 0x07#8) ∧
      ∀ t : TowerIx, b.toNat = t.val → c.InTable →
        let tw := s.tower t
        let clamped := c.metering.scale < 50 ∨ 150 < c.metering.scale
        let r := if clamped then 0x01#8 else 0x00#8
        let blocked :=
          (c.geometry ≠ tw.config.geometry ∧ tw.state ≠ .dark) ∨
          (c.drive.concurrency ≠ tw.config.drive.concurrency ∧
            (tw.state ≠ .dark ∨ ∃ key ∈ tw.keys, key.drive.state = .moving))
        (blocked → refused 0x08#8) ∧
        (¬blocked → (∃ u, answer = .next u ∧ (u.tower t).config = c.taken ∧ (u.port .console).reply = some [0xB0#8, r]) ∧
          (c.geometry = tw.config.geometry → c.taken.metering = tw.config.metering →
            answer = .next ((s.setTower t { tw with config := c.taken }).sendReply .console [0xB0#8, r])))

/-- An accepted CONFIG SET that changes a field the Preset Engine reads refreshes the whole tower from the new record; plates,
trims, accumulators, positions and settle windows are kept where Z is (R14, R16, R71). A change of Z empties both slots, cuts the
keys from the new Z on with their moves, and surveys the keys it adds (R15). Where each field stands among the 29 bytes, and that
messages already made for cut keys stay in their port's order of sending, is the model's reading, log entries 6 and 12. -/
def Obligations.ConfigChangeRefreshesOrReshapes : Prop :=
  ∀ (t : TowerIx) (b : Byte) (record : List Byte) (c : TowerConfig) (s : State), s.busy .console = false →
    b.toNat = t.val → ConfigFields record c → c.InTable → (s.tower t).ShapeSound → (s.tower t).QueueSound →
    let tw := s.tower t
    let r := if c.metering.scale < 50 ∨ 150 < c.metering.scale then 0x01#8 else 0x00#8
    (c.geometry = tw.config.geometry ∨ tw.state = .dark) →
    (c.drive.concurrency = tw.config.drive.concurrency ∨
      (tw.state = .dark ∧ ∀ key ∈ tw.keys, key.drive.state ≠ .moving)) →
    ∃ u, exec (.configSet .console (b :: record)) s = .next u ∧ (u.port .console).reply = some [0xB0#8, r] ∧
      SameBut t s u ∧ (u.tower t).config = c.taken ∧ (u.tower t).counters = tw.counters ∧
      (∀ q, (s.port q).ctx.tower ≠ t → (u.port q).ctx = (s.port q).ctx) ∧
      (∀ q, (u.port q).cursor = (s.port q).cursor ∧
        { (u.port q).ctx with first := 0, last := 0, pointer := none } =
          { (s.port q).ctx with first := 0, last := 0, pointer := none }) ∧
      (c.geometry.z = tw.z →
        (u.tower t).run = tw.run ∧ (u.tower t).next = tw.next ∧ (∀ q, (u.port q).ctx = (s.port q).ctx) ∧
        (u.tower t).keys.length = tw.keys.length ∧
        (∀ (k : Nat) (key : KeyRec), tw.keys[k]? = some key → ∃ key' : KeyRec, (u.tower t).keys[k]? = some key' ∧
          key'.drive.position = key.drive.position ∧ key'.trim = key.trim ∧ key'.acc = key.acc ∧
          key'.settleUntil = key.settleUntil ∧
          ∀ target, key.drive.moveTarget = some target → key'.drive = key.drive) ∧
        (¬(c.geometry = tw.config.geometry ∧ c.taken.metering = tw.config.metering) →
          (u.tower t).PresetsCurrent u.curves)) ∧
      (c.geometry.z ≠ tw.z →
        (u.tower t).run = { coverage := List.replicate c.geometry.z none, tag := none, mirrored := false } ∧
        (u.tower t).next = (u.tower t).run ∧ (u.tower t).state = .dark ∧ (u.tower t).queue = [] ∧
        (u.tower t).sweep = none ∧ (u.tower t).lastSweep = tw.lastSweep ∧ u.faults = s.faults ∧
        (u.tower t).keys.length = c.geometry.z ∧
        (∀ (k : Nat) (key : KeyRec), k < c.geometry.z → tw.keys[k]? = some key →
          (u.tower t).keys[k]? = some { key with target := none, effective := none }) ∧
        (∀ k, tw.z ≤ k → k < c.geometry.z → (u.tower t).keys[k]? = some
          { drive := .unknown, target := none, effective := none, trim := 0, acc := 0, settleUntil := 0#32 }) ∧
        (u.tower t).moving =
          tw.moving - ((tw.keys.drop c.geometry.z).filter fun key => key.drive.state = .moving).length ∧
        (u.tower t).port = tw.port.sendAll ((List.range' tw.z (c.geometry.z - tw.z)).map .ask))

/-! ### The move queue -/

/-- The dispatch check sends the keys at the head of the queue, in queue order, each toward its target steps with the tower's move
timeout, as many as there are keys and free motor slots; afterwards a running tower's queue is empty or its slots are full, and
a DARK or HELD tower sends nothing (R127). -/
def Obligations.DispatchSendsHeads : Prop :=
  ∀ tw : Tower, tw.QueueSound →
    tw.dispatch = tw.afterDispatch ∧
    (tw.state = .presetting ∨ tw.state = .printing → tw.dispatch.queue = [] ∨
      tw.config.drive.concurrency ≤ tw.dispatch.moving) ∧
    (tw.state = .dark ∨ tw.state = .held → tw.dispatch = tw) ∧
    (tw.moving ≤ tw.config.drive.concurrency → tw.dispatch.moving ≤ tw.config.drive.concurrency)

/-- A target change is taken by the key's drive state and the tower state (R126); a PRESETTING tower with no key waiting or
moving enters PRINTING and its SWEEP is checked (R118, R120); a sweep change is sent in PRESETTING and PRINTING where it differs
from the last sweep sent (R142). -/
def Obligations.TargetAndSweepChangesAreTaken : Prop :=
  (∀ (tw : Tower) (k : Nat) (key : KeyRec), tw.keys[k]? = some key →
    (∀ q n, key.drive = .idle q → key.target.map Target.steps = some n → n ≠ q → tw.state ≠ .dark → tw.targetChange k =
      ({ tw with keys := tw.keys.set k { key with drive := .queued q }, queue := tw.queue ++ [k] } : Tower).dispatch) ∧
    (∀ q, key.drive = .idle q → (tw.state = .dark ∨ key.target = none ∨ key.target.map Target.steps = some q) →
      tw.targetChange k = tw) ∧
    (∀ q n, key.drive = .queued q → key.target.map Target.steps = some n → n ≠ q → tw.targetChange k = tw) ∧
    (∀ q, key.drive = .queued q → (key.target = none ∨ key.target.map Target.steps = some q) → tw.targetChange k =
      ({ tw with keys := tw.keys.set k { key with drive := .idle q }, queue := tw.queue.filter (· ≠ k) } : Tower).afterDrain) ∧
    (key.drive.state ∈ [DriveState.unknown, .moving, .faulted] → tw.targetChange k = tw)) ∧
  (∀ tw : Tower, tw.drainCheck = tw.afterDrain) ∧
  (∀ tw : Tower, tw.sweepCheck = tw.withSweep) ∧
  ∀ tw : Tower, tw.sweepChange = if tw.state = .presetting ∨ tw.state = .printing then tw.withSweep else tw

/-! ### Tower sequencing -/

/-- ENGAGE has no effect outside DARK, is refused without a COMPLETE RUN slot or with an UNKNOWN key, and else takes the tower
through PRESETTING: windows opened, counters zeroed, the SWEEP sent first, the IDLE keys away from their targets queued in
ascending order and dispatched, and the drain check made (R94, R104, R107, R108). -/
def Obligations.EngagePresetsTower : Prop :=
  (∀ (b : Byte) (s : State), s.busy .console = false → 12 ≤ b.toNat →
    exec (.engage .console [b]) s = .next (s.sendReply .console [0xB1#8, 0x07#8])) ∧
  ∀ (t : TowerIx) (b : Byte) (s : State), s.busy .console = false → b.toNat = t.val →
    let tw := s.tower t
    let answer := exec (.engage .console [b]) s
    let unknown := ∃ key ∈ tw.keys, key.drive = .unknown
    (tw.state ≠ .dark → answer = .next (s.sendReply .console [0xB1#8, 0x00#8])) ∧
    (tw.state = .dark → tw.run.complete = false → answer = .next (s.sendReply .console [0xB1#8, 0x0B#8])) ∧
    (tw.state = .dark → tw.run.complete = true → unknown → answer = .next (s.sendReply .console [0xB1#8, 0x0A#8])) ∧
    (tw.state = .dark → tw.run.complete = true → ¬unknown → tw.keys.length = tw.z → tw.QueueSound →
      let away := (List.range tw.z).filter tw.isAway
      let presetting := { tw.withSweep with
        state := .presetting
        keys := tw.keys.mapIdx fun k (key : KeyRec) =>
          { key with
            drive := if k ∈ away then key.drive.toQueued else key.drive
            settleUntil := s.sheets + BitVec.ofNat 32 tw.config.drive.settleSheets }
        queue := away
        counters := { applied := 0, settleSkipped := 0, deadbandSkipped := 0, stateSkipped := 0 } }
      answer = .next ((s.setTower t presetting.afterDispatch.afterDrain).sendReply .console [0xB1#8, 0x00#8]))

/-- DISENGAGE is accepted in every tower state: the tower is DARK, every key in the queue leaves it and becomes IDLE, the last
sweep sent is absent, and everything else is kept (R110). A tower outside 0..11 is refused. -/
def Obligations.DisengageEmptiesQueue : Prop :=
  (∀ (t : TowerIx) (b : Byte) (s : State), s.busy .console = false → b.toNat = t.val → (s.tower t).QueueSound →
    let tw := s.tower t
    exec (.disengage .console [b]) s = .next ((s.setTower t { tw with
      state := .dark
      queue := []
      lastSweep := none
      keys := tw.keys.map fun key : KeyRec =>
        { key with drive := match key.drive with
          | .queued q => .idle q
          | d => d } }).sendReply .console [0xB2#8, 0x00#8])) ∧
  ∀ (b : Byte) (s : State), s.busy .console = false → 12 ≤ b.toNat →
    exec (.disengage .console [b]) s = .next (s.sendReply .console [0xB2#8, 0x07#8])

/-- JOB CHANGE is refused in PRESETTING with BUSY, without a COMPLETE NEXT slot with INCOMPLETE, and in DARK with an UNKNOWN key
with NOT_READY (R112). Accepted, it moves NEXT into RUN, zeroes trims unless KEEP is set, zeroes accumulators and counters,
opens every window, computes every target and the sweep from the new plate, and leaves a tower that is not HELD PRESETTING with
its work or PRINTING without, its SWEEP sent, and no IDLE key away from its target (R38, R85, R94, R95, R113). The keys whose
target steps the refresh changed join the queue in ascending order behind those still queued, then the others that stand away
(R113, R128); the first of them are sent their MOVEs, as many as there are free motor slots, the SWEEP between those of the
refresh and the others where the refresh changed the sweep, and last where it did not (R120, R127); a HELD tower sends nothing.
The refresh logs its one CURVE_INCOMPLETE fault (R62). Every write context and cursor stays (R39). -/
def Obligations.JobChangeBringsPlateIn : Prop :=
  (∀ (b f : Byte) (s : State), s.busy .console = false → (12 ≤ b.toNat ∨ 2 ≤ f.toNat) →
    exec (.jobChange .console [b, f]) s = .next (s.sendReply .console [0xB3#8, 0x07#8])) ∧
  ∀ (t : TowerIx) (b f : Byte) (s : State), s.busy .console = false → b.toNat = t.val → f.toNat ≤ 1 →
    let tw := s.tower t
    let answer := exec (.jobChange .console [b, f]) s
    let refused := fun r : Byte => answer = .next (s.sendReply .console [0xB3#8, r])
    let unready := tw.state = .dark ∧ ∃ key ∈ tw.keys, key.drive = .unknown
    (tw.state = .presetting → refused 0x09#8) ∧
    (tw.state ≠ .presetting → tw.next.complete = false → refused 0x0B#8) ∧
    (tw.state ≠ .presetting → tw.next.complete = true → unready → refused 0x0A#8) ∧
    (tw.state ≠ .presetting → tw.next.complete = true → ¬unready → tw.ShapeSound → tw.QueueSound → tw.DispatchSound →
      ∃ u, answer = .next u ∧ SameBut t s u ∧ u.masters = (s.sendReply .console [0xB3#8, 0x00#8]).masters ∧
        let tw' := u.tower t
        let queuedFirst := tw.lineAfter tw'
        let line := queuedFirst ++ tw.idleAway tw' false
        let n := if tw.state = .held then 0 else min line.length (tw.config.drive.concurrency - tw.moving)
        let sweep := match tw'.sweep with
          | some v => if tw.lastSweep = some v then [] else [DriveMessage.sweep v]
          | none => []
        let early := tw'.movesOf (queuedFirst.take n)
        let late := tw'.movesOf ((tw.idleAway tw' false).take (n - queuedFirst.length))
        u.faults = s.faultsAfter t tw' ∧ tw'.queue = line.drop n ∧ tw'.moving = tw.moving + n ∧
        (tw.state ≠ .held → tw'.port =
          tw.port.sendAll (if tw'.sweep = tw.sweep then early ++ late ++ sweep else early ++ sweep ++ late)) ∧
        tw'.run = tw.next ∧ tw'.next = { coverage := List.replicate tw.z none, tag := none, mirrored := false } ∧
        tw'.config = tw.config ∧ tw'.PresetsCurrent u.curves ∧
        tw'.counters = { applied := 0, settleSkipped := 0, deadbandSkipped := 0, stateSkipped := 0 } ∧
        tw'.keys.length = tw.keys.length ∧
        (∀ (k : Nat) (key : KeyRec), tw.keys[k]? = some key → ∃ key' : KeyRec, tw'.keys[k]? = some key' ∧
          key'.trim = (if f.toNat = 1 then key.trim else 0) ∧ key'.acc = 0 ∧
          key'.settleUntil = s.sheets + BitVec.ofNat 32 tw.config.drive.settleSheets ∧
          key'.drive.position = key.drive.position ∧
          (key.drive.state ∈ [DriveState.unknown, .moving, .faulted] → key'.drive = key.drive) ∧
          (k ∈ line.take n → ∃ q g, key'.target = some g ∧ key'.drive = .moving q g.steps tw.config.drive.moveTimeout) ∧
          (key.drive.state ∈ [DriveState.idle, .queued] → k ∉ line.take n →
            key'.drive.state = if k ∈ tw'.queue then .queued else .idle) ∧
          ((s.curve (tw.curveOf k)).length < 2 → key'.target = key.target.map (heldOf tw.config)) ∧
          ∀ q g, key'.drive = .idle q → key'.target = some g → g.steps = q) ∧
        (tw.state = .held → tw'.state = .held ∧ tw'.lastSweep = tw.lastSweep ∧ tw'.moving = tw.moving ∧ tw'.port = tw.port) ∧
        (tw.state ≠ .held → tw'.lastSweep = tw'.sweep ∧
          tw'.state = if tw'.queue = [] ∧ tw'.moving = 0 then .printing else .presetting))

/-- HOLD changes the state of a PRESETTING or PRINTING tower to HELD and nothing else, has no effect on a HELD one and is refused
in DARK (R115). RELEASE is refused in DARK and, in HELD, without a COMPLETE RUN slot; it has no effect on a running tower; else
it checks the SWEEP, dispatches, and leaves the tower PRESETTING where a key waits or moves and PRINTING else (R116, R117). -/
def Obligations.HoldAndRelease : Prop :=
  (∀ (b : Byte) (s : State), s.busy .console = false → 12 ≤ b.toNat →
    exec (.hold .console [b]) s = .next (s.sendReply .console [0xB4#8, 0x07#8]) ∧
    exec (.release .console [b]) s = .next (s.sendReply .console [0xB5#8, 0x07#8])) ∧
  ∀ (t : TowerIx) (b : Byte) (s : State), s.busy .console = false → b.toNat = t.val →
    let tw := s.tower t
    let held := exec (.hold .console [b]) s
    let released := exec (.release .console [b]) s
    (tw.state = .dark → held = .next (s.sendReply .console [0xB4#8, 0x08#8])) ∧
    (tw.state = .held → held = .next (s.sendReply .console [0xB4#8, 0x00#8])) ∧
    (tw.state = .presetting ∨ tw.state = .printing →
      held = .next ((s.setTower t { tw with state := .held }).sendReply .console [0xB4#8, 0x00#8])) ∧
    (tw.state = .dark → released = .next (s.sendReply .console [0xB5#8, 0x08#8])) ∧
    (tw.state = .presetting ∨ tw.state = .printing → released = .next (s.sendReply .console [0xB5#8, 0x00#8])) ∧
    (tw.state = .held → tw.run.complete = false → released = .next (s.sendReply .console [0xB5#8, 0x0B#8])) ∧
    (tw.state = .held → tw.run.complete = true → tw.QueueSound →
      let resumed := { tw.withSweep with state := if tw.queue ≠ [] ∨ 0 < tw.moving then .presetting else .printing }
      released = .next ((s.setTower t resumed.afterDispatch).sendReply .console [0xB5#8, 0x00#8]))

/-! ### Reports of the drive modules and timers -/

/-- A DONE for a MOVING key ends its move: outside the step tolerance the key is FAULTED SHORT and the fault is logged; within it
the key is queued again where its target lies elsewhere and the tower is not DARK, and is IDLE else. Either way its settle window
opens, its motor slot is free for the next dispatch, and the drain check is made (R93, R131). The frame's end returns the port's
framer to HUNT (log entries 5 and 8). -/
def Obligations.DoneEndsMove : Prop :=
  ∀ (t : TowerIx) (kb : Byte) (pos : BitVec 16) (key : KeyRec) (q target timeout : Nat) (s : State),
    let k := kb.toNat
    let x := pos.toNat
    let tw := s.tower t
    let stopped := fun d : Drive => { tw.reported k { key with
        drive := d, settleUntil := s.sheets + BitVec.ofNat 32 tw.config.drive.settleSheets } with moving := tw.moving - 1 }
    let far := tw.config.drive.tolerance < x - target + (target - x)
    let again := tw.state ≠ .dark ∧ ∃ g, key.target = some g ∧ g.steps ≠ x
    tw.keys[k]? = some key → key.drive = .moving q target timeout → tw.QueueSound →
    (far → exec (.done t kb pos) s = .next
      ((s.setTower t (stopped (.faulted .short (some x))).afterDispatch.afterDrain).logFault .short (.key t k))) ∧
    (¬far → ¬again → exec (.done t kb pos) s = .next (s.setTower t (stopped (.idle x)).afterDispatch.afterDrain)) ∧
    (¬far → again → exec (.done t kb pos) s = .next
      (s.setTower t ({ stopped (.queued x) with queue := tw.queue ++ [k] } : Tower).afterDispatch.afterDrain))

/-- A FAULT makes its key FAULTED with the kind and position reported, whatever the key did, and is logged; a MOVING key's motor
slot is freed and the next key dispatched, a QUEUED key leaves the queue, and a PRESETTING tower's drain is checked (R132, R136).
That no drain check is made for an UNKNOWN, IDLE or FAULTED key, where it could find nothing, is the model's reading, log entry
13; the framer is left in HUNT as log entries 5 and 8 say. -/
def Obligations.FaultReportStopsKey : Prop :=
  ∀ (t : TowerIx) (kb : Byte) (kind : ReportKind) (pos : BitVec 16) (key : KeyRec) (s : State),
    let k := kb.toNat
    let tw := s.tower t
    let keyFault : KeyFault := match kind with
      | .stall => .stall
      | .overrange => .overrange
      | .driver => .driver
    let fault : FaultKind := match kind with
      | .stall => .stall
      | .overrange => .overrange
      | .driver => .driver
    let stopped := tw.reported k { key with drive := .faulted keyFault (some pos.toNat) }
    let left := fun tw' : Tower => exec (.fault t kb kind pos) s = .next ((s.setTower t tw').logFault fault (.key t k))
    tw.keys[k]? = some key → tw.QueueSound →
    (key.drive.state = .moving → left ({ stopped with moving := tw.moving - 1 } : Tower).afterDispatch.afterDrain) ∧
    (key.drive.state = .queued → left ({ stopped with queue := tw.queue.filter (· ≠ k) } : Tower).afterDrain) ∧
    (key.drive.state ∈ [DriveState.unknown, .idle, .faulted] → left stopped)

/-- A POS, and a DONE for a key that is not MOVING, take the position reported: an UNKNOWN or IDLE key stands there, and is queued
and dispatched where its target lies elsewhere and the tower is not DARK; a QUEUED key at its target leaves the queue; a MOVING
key moves on; a FAULTED key stays so, and a DONE after a TIMEOUT logs LATE (R134, R135, R137). A report of a key of Z or more is
discarded (R2). That no drain check is made at a DONE of an UNKNOWN, IDLE or FAULTED key, where it could find nothing, is the
model's reading, log entry 13; the framer is left in HUNT as log entries 5 and 8 say. -/
def Obligations.PositionReportsAreTaken : Prop :=
  ∀ (t : TowerIx) (kb : Byte) (pos : BitVec 16) (s : State),
    let k := kb.toNat
    let x := pos.toNat
    let tw := s.tower t
    let done := exec (.done t kb pos) s
    let reported := exec (.pos t kb pos) s
    (tw.keys.length = tw.z → tw.z ≤ k →
      let discarded := s.setTower t { tw with port := { tw.port with framer := Framer.hunting } }
      done = .next discarded ∧ reported = .next discarded ∧
        ∀ kind : ReportKind, exec (.fault t kb kind pos) s = .next discarded) ∧
    ∀ key : KeyRec, tw.keys[k]? = some key → tw.QueueSound →
      let standing := fun d : Drive => tw.reported k { key with drive := d }
      let both := fun tw' : Tower => done = .next (s.setTower t tw') ∧ reported = .next (s.setTower t tw')
      let away := ∃ g, key.target = some g ∧ g.steps ≠ x
      (key.drive.state = .unknown ∨ key.drive.state = .idle →
        (tw.state ≠ .dark → away →
          both ({ standing (.queued x) with queue := tw.queue ++ [k] } : Tower).afterDispatch) ∧
        (tw.state = .dark ∨ ¬away → both (standing (.idle x)))) ∧
      (key.drive.state = .queued →
        (key.target.map Target.steps = some x →
          both ({ standing (.idle x) with queue := tw.queue.filter (· ≠ k) } : Tower).afterDrain) ∧
        (key.target.map Target.steps ≠ some x → both (standing (.queued x)))) ∧
      (∀ q target timeout, key.drive = .moving q target timeout →
        reported = .next (s.setTower t (standing (.moving x target timeout)))) ∧
      ∀ kind q, key.drive = .faulted kind q →
        let stays := s.setTower t (standing (.faulted kind (some x)))
        reported = .next stays ∧ (kind ≠ .timeout → done = .next stays) ∧
          (kind = .timeout → done = .next (stays.logFault .late (.key t k)))

/-- A move timer that expires ends the move: the key is FAULTED TIMEOUT where it last was, its slot is freed, the fault is logged
(R133). An ask timer that expires makes its key FAULTED NO_ANSWER, position absent, and is logged (R139). A timer that is not
running does nothing (the model's reading, log entry 4). -/
def Obligations.TimersExpire : Prop :=
  ∀ (t : TowerIx) (k : Nat) (s : State),
    let tw := s.tower t
    let gone := fun (key : KeyRec) (d : Drive) => { tw with keys := tw.keys.set k { key with drive := d } }
    (∀ (key : KeyRec) (q target timeout : Nat), tw.keys[k]? = some key → key.drive = .moving q target timeout →
      tw.QueueSound →
      exec (.moveTimerExpiry t k) s = .next ((s.setTower t
        ({ gone key (.faulted .timeout (some q)) with moving := tw.moving - 1 } : Tower).afterDispatch.afterDrain).logFault
          .timeout (.key t k))) ∧
    (∀ key : KeyRec, tw.keys[k]? = some key → key.drive = .unknown →
      exec (.askTimerExpiry t k) s =
        .next ((s.setTower t (gone key (.faulted .noAnswer none))).logFault .noAnswer (.key t k))) ∧
    ((∀ key : KeyRec, tw.keys[k]? = some key → key.drive.state ≠ .moving) → exec (.moveTimerExpiry t k) s = .next s) ∧
    ((∀ key : KeyRec, tw.keys[k]? = some key → key.drive.state ≠ .unknown) → exec (.askTimerExpiry t k) s = .next s)

/-- CLEAR KEY FAULT surveys the named keys that are FAULTED, in ascending order: each becomes UNKNOWN and is asked; the reply
counts them; other keys, and the fault list, stay (R138, R140). A tower outside 0..11 and a key of Z or more are refused. -/
def Obligations.ClearKeyFaultSurveys : Prop :=
  (∀ (t : TowerIx) (b kb : Byte) (s : State), s.busy .console = false → b.toNat = t.val → (s.tower t).z ≤ 48 →
    let tw := s.tower t
    (kb.toNat < tw.z ∨ kb = 0xFF#8) →
    let named := fun k => kb = 0xFF#8 ∨ k = kb.toNat
    let surveyed := (List.range tw.z).filter fun k =>
      decide (named k) && (tw.keys[k]?.map fun key => key.drive.state) == some DriveState.faulted
    exec (.clearKeyFault .console [b, kb]) s = .next ((s.setTower t { tw with
      keys := tw.keys.mapIdx fun k (key : KeyRec) => if k ∈ surveyed then { key with drive := Drive.unknown } else key
      port := tw.port.sendAll (surveyed.map .ask) }).sendReply .console [0xB8#8, 0x00#8, BitVec.ofNat 8 surveyed.length])) ∧
  ∀ (b kb : Byte) (s : State), s.busy .console = false →
    (12 ≤ b.toNat ∨ ∃ t : TowerIx, b.toNat = t.val ∧ (s.tower t).z ≤ kb.toNat ∧ kb ≠ 0xFF#8) →
    exec (.clearKeyFault .console [b, kb]) s = .next (s.sendReply .console [0xB8#8, 0x07#8])

/-! ### Access and restart -/

/-- ACCESS SET takes the trust level and the three deny maps and returns them; a trust level above 2 and a map with one of its
three high bits set are refused (R157, R158, R174). -/
def Obligations.AccessSetTakesMaps : Prop :=
  ∀ (tl c1 c0 p1 p0 q1 q0 : Byte) (s : State), s.busy .console = false →
    let args := [tl, c1, c0, p1, p0, q1, q0]
    let map := fun hi lo : Byte => BitVec.ofNat 13 (hi.toNat * 256 + lo.toNat)
    (tl.toNat ≤ 2 → c1.toNat < 32 → p1.toNat < 32 → q1.toNat < 32 →
      exec (.accessSet .console args) s = .next (({ s with access :=
        { trust := tl.toNat, console := map c1 c0, plate := map p1 p0, scanner := map q1 q0 } } : State).sendReply .console
          (0xB9#8 :: 0x00#8 :: args))) ∧
    (2 < tl.toNat ∨ 32 ≤ c1.toNat ∨ 32 ≤ p1.toNat ∨ 32 ≤ q1.toNat →
      exec (.accessSet .console args) s = .next (s.sendReply .console [0xB9#8, 0x07#8]))

/-- RESTART is accepted on the console and answered first; the restart takes effect when the reply has been sent (R144): towers
DARK, queues and moves dropped, every key surveyed, accumulators and counters zero, the fault list emptied, contexts and cursors
at their power-on values, every tower refreshed from plates, records, curves and trims, which are kept (R74, R122, R141, R144).
Without a pending RESTART the event does nothing (the model's reading, log entry 3). -/
def Obligations.RestartTakesEffect : Prop :=
  (∀ s : State, s.busy .console = false →
    exec (.restart .console []) s = .next (({ s with restartPending := true } : State).sendReply .console [0xBA#8, 0x00#8])) ∧
  (∀ s : State, s.restartPending = false → exec .restartTakesEffect s = .next s) ∧
  (∀ s : State, s.restartPending = true → s.busy .console = true →
    exec (.replySent .console) s = exec .restartTakesEffect s) ∧
  ∀ s : State, s.restartPending = true → (∀ t : TowerIx, (s.tower t).keys.length = (s.tower t).z) →
    ∃ u, exec .restartTakesEffect s = .next u ∧ u.pending = s.pending ∧ u.sheets = s.sheets ∧ u.curves = s.curves ∧
      u.access = s.access ∧ u.restartPending = false ∧ (u.port .console).reply = none ∧
      (u.port .console).framer.phase = .hunt ∧
      (∀ p, p ≠ .console → (u.port p).reply = (s.port p).reply ∧ (u.port p).framer = (s.port p).framer) ∧
      (∀ p, (u.port p).ctx =
          { tower := 0, slot := .next, first := 0, last := (s.tower 0).z - 1, pointer := some 0, direction := .up,
            mode := .replace, mask := BitVec.allOnes 48 } ∧
        (u.port p).cursor = { curve := 0, index := 0, phase := .even, lastOp := .none }) ∧
      u.faults.full = false ∧
      (∀ r ∈ u.faults.records, r.kind = .curveIncomplete ∧ r.first = s.sheets ∧ r.last = s.sheets ∧ r.count = 1) ∧
      ∀ t : TowerIx,
        let tw := s.tower t
        let tw' := u.tower t
        tw'.config = tw.config ∧ tw'.run = tw.run ∧ tw'.next = tw.next ∧ tw'.state = .dark ∧ tw'.queue = [] ∧
          tw'.moving = 0 ∧ tw'.lastSweep = none ∧
          tw'.counters = { applied := 0, settleSkipped := 0, deadbandSkipped := 0, stateSkipped := 0 } ∧
          tw'.keys.length = tw.keys.length ∧
          (∀ (k : Nat) (key : KeyRec), tw.keys[k]? = some key → ∃ key' : KeyRec, tw'.keys[k]? = some key' ∧
            key'.drive = .unknown ∧ key'.trim = key.trim ∧ key'.acc = 0 ∧ key'.settleUntil = key.settleUntil) ∧
          tw'.PresetsCurrent u.curves ∧ tw'.port.framer.phase = .hunt ∧
          tw'.port.sending.toList ++ tw'.port.waiting = tw.port.sending.toList ++ (List.range tw.z).map .ask ∧
          ((∃ r ∈ u.faults.records, r.origin = .tower t) ↔
            tw.run.complete = true ∧ ∃ k, k < tw.z ∧ (s.curve (tw.curveOf k)).length < 2)

/-! ### Invariants that every step keeps -/

/-- Every step keeps the geometry: configuration records in range (R6), Z key records (R2), Z zones with coverages within 0..1000
in each slot (R3, R18), and every write context's window inside its tower with the pointer inside its window (R23). -/
def Obligations.EveryStepKeepsGeometry : Prop :=
  ∀ s u : State, s.GeometrySound → step s = .next u → u.GeometrySound

/-- Every step keeps the curve table: at most 12 points a curve, ascending coverages, values within 0..1000, cursors in range
(R40, R42); and the Fault List: at most 32 records of distinct kind and origin, each counted 1..255 (R161, R162). -/
def Obligations.EveryStepKeepsCurvesAndFaults : Prop :=
  ∀ s u : State, step s = .next u → (s.CurvesSound → u.CurvesSound) ∧ (s.faults.Sound → u.faults.Sound)

/-- Every step keeps the move queues: a key is queued exactly when it is QUEUED, once, never in DARK, away from its target (R124,
R127); the moving count is the number of MOVING keys, at most C (R125); a running tower with a key waiting has all C moving; and
a PRESETTING tower has a key waiting or moving (R118). -/
def Obligations.EveryStepKeepsQueues : Prop :=
  ∀ s u : State, s.GeometrySound → s.QueueSound → s.MovingSound → s.DispatchSound → step s = .next u →
    u.QueueSound ∧ u.MovingSound ∧ u.DispatchSound ∧ (s.PresettingSound → u.PresettingSound)

/-- Every step keeps the targets within the opening limits and the full travel, with the steps of their openings (R55, R67), and
trims, accumulators, positions, sweeps, effective coverages and counters within their ranges (R59, R68, R77, R95, R104), and the
trust level within 0..2 (R157). -/
def Obligations.EveryStepKeepsTargetsAndRanges : Prop :=
  ∀ s u : State, s.GeometrySound → s.TargetsSound → s.RangesSound → step s = .next u → u.TargetsSound ∧ u.RangesSound

/-- Every step keeps every target, effective coverage and sweep current: what the nine steps of the computation give the present
coverage, mapping, record, curves, trims and accumulators, and absent without a COMPLETE RUN slot (R55 to R74); and a PRESETTING
or PRINTING tower's RUN slot COMPLETE (R116). No event changes an input without the refresh of what depends on it. -/
def Obligations.EveryStepKeepsPresetsCurrent : Prop :=
  ∀ s u : State, s.GeometrySound → s.PresetsCurrent → s.RunningSound → step s = .next u →
    u.PresetsCurrent ∧ u.RunningSound

/-- Every step keeps the lines: a busy master port's framer in HUNT, each framer's timer running exactly outside HUNT, and no
message waiting on a drive port that sends none (R129, R143, R146 to R148). -/
def Obligations.EveryStepKeepsLinks : Prop :=
  ∀ s u : State, s.LinksSound → step s = .next u → u.LinksSound
end

