-- ==== Sys2Proof/Laws/Arithmetic.lean ====
section
/-! SUPPORT. What the shared arithmetic can answer: bounds of rounding, clamping, combining, curve lookup and targets. -/

namespace Sys2Proof.Machine

/-- A quotient bounded before rounding half up is bounded after it (section 7.1 of the Introduction). -/
theorem roundHalfUp_le {a b c : Nat} (hb : 0 < b) (h : a ≤ c * b) : roundHalfUp a b ≤ c := by
  have h2 : 2 * a + b < 2 * b * (c + 1) := by nlinarith
  exact Nat.lt_succ_iff.mp (Nat.div_lt_of_lt_mul h2)

/-- An exact quotient is not changed by rounding. -/
theorem roundHalfUp_mul (c : Nat) {b : Nat} (hb : 0 < b) : roundHalfUp (c * b) b = c := by
  unfold roundHalfUp
  rw [show 2 * (c * b) + b = b + 2 * b * c by ring, Nat.add_mul_div_left _ _ (by omega), Nat.div_eq_of_lt (by omega)]
  omega

theorem roundHalfUp_zero {b : Nat} (hb : 0 < b) : roundHalfUp 0 b = 0 := by
  simpa using roundHalfUp_mul 0 hb

/-- Rounding half up is monotone. -/
theorem roundHalfUp_mono {a a' : Nat} (b : Nat) (h : a ≤ a') : roundHalfUp a b ≤ roundHalfUp a' b :=
  Nat.div_le_div_right (by omega)

/-- A clamped value lies within its limits (section 7.2 of the Introduction). -/
theorem clamp_mem {lo hi : Int} (v : Int) (_ : lo ≤ hi) : lo ≤ clamp lo hi v ∧ clamp lo hi v ≤ hi := by
  unfold clamp; split
  · omega
  · split <;> omega

/-- A clamp leaves a value exactly when the value lies within the limits. -/
theorem clamp_eq_self {lo hi v : Int} (_ : lo ≤ hi) : clamp lo hi v = v ↔ lo ≤ v ∧ v ≤ hi := by
  unfold clamp; split
  · omega
  · split <;> omega

theorem clampCoverage_le (v : Nat) : clampCoverage v ≤ 1000 := by
  unfold clampCoverage; split <;> omega

theorem clampCoverage_eq_self {v : Nat} (h : v ≤ 1000) : clampCoverage v = v := by
  simp [clampCoverage]; omega

/-- Every combine mode yields a coverage within 0..1000 (R28). -/
theorem combine_le (mode : Mode) {old : Option Nat} {v : Nat} (hold : ∀ c ∈ old, c ≤ 1000) (hv : v ≤ 1000) :
    combine mode old v ≤ 1000 := by
  have h0 : old.getD 0 ≤ 1000 := by
    cases old with
    | none => simp
    | some c => simpa using hold c rfl
  cases mode <;> simp only [combine]
  · exact hv
  · split <;> omega
  · omega
  · omega

/-- The steps of an opening never exceed full travel (R67). -/
theorem motorSteps_le {f opening : Nat} (h : opening ≤ 1000) : motorSteps f opening ≤ f :=
  roundHalfUp_le (by omega) (by nlinarith)

@[simp] theorem motorSteps_full (f : Nat) : motorSteps f 1000 = f := by
  unfold motorSteps; rw [Nat.mul_comm]; exact roundHalfUp_mul f (by omega)

@[simp] theorem motorSteps_zero (f : Nat) : motorSteps f 0 = 0 := by
  unfold motorSteps; rw [Nat.zero_mul]; exact roundHalfUp_zero (by omega)

/-- A signed quotient rounded half away from zero stays within a bound of its magnitude (section 7.1). -/
theorem roundAway_natAbs_le {a : Int} {b c : Nat} (hb : 0 < b) (h : a.natAbs ≤ c * b) : (roundAway a b).natAbs ≤ c := by
  have := roundHalfUp_le hb h
  unfold roundAway; split <;> simpa using this

/-- A quotient of a non-negative number rounds to one. -/
theorem roundAway_nonneg {a : Int} (b : Nat) (h : 0 ≤ a) : 0 ≤ roundAway a b := by
  simp [roundAway, h]

theorem roundAway_nonpos {a : Int} (b : Nat) (h : a ≤ 0) : roundAway a b ≤ 0 := by
  unfold roundAway; split
  · have : a = 0 := by omega
    subst this
    rcases Nat.eq_zero_or_pos b with rfl | hb
    · simp [roundHalfUp]
    · simp [roundHalfUp_zero hb]
  · omega

/-- A segment's opening lies between its ends, inclusive (R60). -/
theorem between_mem {p q : Point} {e : Nat} (hpe : p.coverage ≤ e) (heq : e < q.coverage) :
    min p.opening q.opening ≤ between p q e ∧ between p q e ≤ max p.opening q.opening := by
  have hd : 0 < q.coverage - p.coverage := by omega
  set w : Int := ((q.opening : Int) - p.opening) * ((e : Int) - p.coverage) with hw
  have he : (0 : Int) ≤ (e : Int) - p.coverage := by omega
  have hle : ((e : Int) - p.coverage).natAbs ≤ q.coverage - p.coverage := by omega
  have habs : w.natAbs ≤ ((q.opening : Int) - p.opening).natAbs * (q.coverage - p.coverage) := by
    rw [hw, Int.natAbs_mul]; exact Nat.mul_le_mul_left _ hle
  have hb := roundAway_natAbs_le hd habs
  unfold between
  rw [← hw]
  rcases le_total p.opening q.opening with h | h
  · have := roundAway_nonneg (q.coverage - p.coverage) (a := w) (mul_nonneg (by omega) he)
    omega
  · have := roundAway_nonpos (q.coverage - p.coverage) (a := w) (mul_nonpos_of_nonpos_of_nonneg (by omega) he)
    omega

theorem openingFrom_le {p : Point} {rest : List Point} {e b : Nat} (hp : p.opening ≤ b) (hr : ∀ q ∈ rest, q.opening ≤ b)
    (he : p.coverage ≤ e) : openingFrom p rest e ≤ b := by
  induction rest generalizing p with
  | nil => exact hp
  | cons q rest ih =>
    simp only [openingFrom]
    split
    · next hlt =>
      have := (between_mem he hlt).2
      have := hr q (by simp)
      omega
    · next hge => exact ih (hr q (by simp)) (fun r hr' => hr r (by simp [hr'])) (by omega)

/-- A looked-up opening lies within the openings of its curve (R60). -/
theorem openingAt_le {points : List Point} {b : Nat} (h : ∀ q ∈ points, q.opening ≤ b) (e : Nat) : openingAt points e ≤ b := by
  cases points with
  | nil => simp [openingAt]
  | cons p rest =>
    simp only [openingAt]
    split
    · exact h p (by simp)
    · next hge => exact openingFrom_le (h p (by simp)) (fun q hq => h q (by simp [hq])) (by omega)

/-- What a target must be in a tower of this configuration (R55, R67). -/
def Target.FitsConfig (c : TowerConfig) (g : Target) : Prop :=
  c.metering.minOpen ≤ g.opening ∧ g.opening ≤ c.metering.maxOpen ∧ g.steps = motorSteps c.geometry.f g.opening ∧
    g.steps ≤ c.geometry.f

/-- The record's limits of opening (R6, R9): they are ordered and within 0..1000. -/
theorem TowerConfig.Sound.limits {c : TowerConfig} (h : c.Sound) :
    c.metering.minOpen ≤ c.metering.maxOpen ∧ c.metering.maxOpen ≤ 1000 := by
  have := h.1
  simp only [TowerConfig.inRange, Bool.and_eq_true, decide_eq_true_eq] at this
  omega

/-- Steps 7 and 8 give a target within the limits, whatever the corrected opening (R66, R67). -/
theorem limitedTarget_fits {c : TowerConfig} (hc : c.Sound) (t : Int) : (limitedTarget c t).FitsConfig c := by
  obtain ⟨h1, h2⟩ := hc.limits
  unfold limitedTarget
  split
  · exact ⟨le_refl _, h1, rfl, motorSteps_le (by omega)⟩
  · split
    · exact ⟨h1, le_refl _, rfl, motorSteps_le (by omega)⟩
    · exact ⟨by simp only; omega, by simp only; omega, rfl, motorSteps_le (by omega)⟩

/-- A held target is clamped into the limits (R61). -/
theorem heldTarget_fits {c : TowerConfig} (hc : c.Sound) (g : Target) : (heldTarget c g).FitsConfig c := by
  obtain ⟨h1, h2⟩ := hc.limits
  unfold heldTarget
  split
  · exact ⟨le_refl _, h1, rfl, motorSteps_le (by omega)⟩
  · split
    · exact ⟨h1, le_refl _, rfl, motorSteps_le (by omega)⟩
    · exact ⟨by simp only; omega, by simp only; omega, rfl, motorSteps_le (by omega)⟩

end Sys2Proof.Machine
end

