-- ==== Sys2Proof/Laws/State.lean ====
section
/-! SUPPORT. One small lemma for each field and each update of the state: what a named update leaves as it was, and what it
sets. Later proofs cite these and unfold no record update. -/

namespace Sys2Proof.Machine

/-! ### The state: towers, curves and master ports -/

@[simp] theorem State.tower_setTower_same (s : State) (t : TowerIx) (tw : Tower) : (s.setTower t tw).tower t = tw := by
  simp [State.tower, State.setTower, Vector.get_eq_getElem]

theorem State.tower_setTower_of_ne (s : State) {t u : TowerIx} (tw : Tower) (h : u ≠ t) :
    (s.setTower t tw).tower u = s.tower u := by
  have h' : ¬t.val = u.val := fun e => h (Fin.ext e.symm)
  simp [State.tower, State.setTower, Vector.get_eq_getElem, h']

theorem State.tower_setTower (s : State) (t u : TowerIx) (tw : Tower) :
    (s.setTower t tw).tower u = if u = t then tw else s.tower u := by
  by_cases h : u = t
  · subst h; simp
  · simp [h, State.tower_setTower_of_ne]

@[simp] theorem State.setTower_self (s : State) (t : TowerIx) : s.setTower t (s.tower t) = s := by
  simp [State.tower, State.setTower, Vector.get_eq_getElem]

@[simp] theorem State.setTower_setTower (s : State) (t : TowerIx) (a b : Tower) :
    (s.setTower t a).setTower t b = s.setTower t b := by
  simp [State.setTower]

@[simp] theorem State.tower_mapTowers (s : State) (f : Tower → Tower) (t : TowerIx) :
    (s.mapTowers f).tower t = f (s.tower t) := by
  simp [State.tower, State.mapTowers, Vector.get_eq_getElem]

@[simp] theorem State.curve_setCurve_same (s : State) (c : CurveIx) (points : List Point) :
    (s.setCurve c points).curve c = points := by
  simp [State.curve, State.setCurve, Vector.get_eq_getElem]

theorem State.curve_setCurve_of_ne (s : State) {c d : CurveIx} (points : List Point) (h : d ≠ c) :
    (s.setCurve c points).curve d = s.curve d := by
  have h' : ¬c.val = d.val := fun e => h (Fin.ext e.symm)
  simp [State.curve, State.setCurve, Vector.get_eq_getElem, h']

theorem State.curve_setCurve (s : State) (c d : CurveIx) (points : List Point) :
    (s.setCurve c points).curve d = if d = c then points else s.curve d := by
  by_cases h : d = c
  · subst h; simp
  · simp [h, State.curve_setCurve_of_ne]

@[simp] theorem State.port_setPort_same (s : State) (p : MasterPort) (r : MasterPortRec) : (s.setPort p r).port p = r := by
  cases p <;> rfl

theorem State.port_setPort_of_ne (s : State) {p q : MasterPort} (r : MasterPortRec) (h : q ≠ p) :
    (s.setPort p r).port q = s.port q := by
  cases p <;> cases q <;> first | rfl | exact absurd rfl h

theorem State.port_setPort (s : State) (p q : MasterPort) (r : MasterPortRec) :
    (s.setPort p r).port q = if q = p then r else s.port q := by
  by_cases h : q = p
  · subst h; simp
  · simp [h, State.port_setPort_of_ne]

@[simp] theorem State.setPort_setPort (s : State) (p : MasterPort) (a b : MasterPortRec) :
    (s.setPort p a).setPort p b = s.setPort p b := by
  cases p <;> rfl

/-! ### What each update of the state leaves -/

@[simp] theorem State.setTower_pending (s : State) (t : TowerIx) (tw : Tower) : (s.setTower t tw).pending = s.pending := rfl
@[simp] theorem State.setTower_sheets (s : State) (t : TowerIx) (tw : Tower) : (s.setTower t tw).sheets = s.sheets := rfl
@[simp] theorem State.setTower_curves (s : State) (t : TowerIx) (tw : Tower) : (s.setTower t tw).curves = s.curves := rfl
@[simp] theorem State.setTower_access (s : State) (t : TowerIx) (tw : Tower) : (s.setTower t tw).access = s.access := rfl
@[simp] theorem State.setTower_faults (s : State) (t : TowerIx) (tw : Tower) : (s.setTower t tw).faults = s.faults := rfl
@[simp] theorem State.setTower_restartPending (s : State) (t : TowerIx) (tw : Tower) : (s.setTower t tw).restartPending = s.restartPending := rfl
@[simp] theorem State.setTower_masters (s : State) (t : TowerIx) (tw : Tower) : (s.setTower t tw).masters = s.masters := rfl
@[simp] theorem State.setTower_curve (s : State) (t : TowerIx) (tw : Tower) (c : CurveIx) :
    (s.setTower t tw).curve c = s.curve c := rfl
@[simp] theorem State.setTower_port (s : State) (t : TowerIx) (tw : Tower) (p : MasterPort) :
    (s.setTower t tw).port p = s.port p := by cases p <;> rfl
@[simp] theorem State.setTower_busy (s : State) (t : TowerIx) (tw : Tower) (p : MasterPort) :
    (s.setTower t tw).busy p = s.busy p := by cases p <;> rfl

@[simp] theorem State.mapTowers_pending (s : State) (f : Tower → Tower) : (s.mapTowers f).pending = s.pending := rfl
@[simp] theorem State.mapTowers_sheets (s : State) (f : Tower → Tower) : (s.mapTowers f).sheets = s.sheets := rfl
@[simp] theorem State.mapTowers_curves (s : State) (f : Tower → Tower) : (s.mapTowers f).curves = s.curves := rfl
@[simp] theorem State.mapTowers_access (s : State) (f : Tower → Tower) : (s.mapTowers f).access = s.access := rfl
@[simp] theorem State.mapTowers_faults (s : State) (f : Tower → Tower) : (s.mapTowers f).faults = s.faults := rfl
@[simp] theorem State.mapTowers_restartPending (s : State) (f : Tower → Tower) : (s.mapTowers f).restartPending = s.restartPending := rfl
@[simp] theorem State.mapTowers_masters (s : State) (f : Tower → Tower) : (s.mapTowers f).masters = s.masters := rfl

@[simp] theorem State.setCurve_pending (s : State) (c : CurveIx) (points : List Point) :
    (s.setCurve c points).pending = s.pending := rfl
@[simp] theorem State.setCurve_sheets (s : State) (c : CurveIx) (points : List Point) :
    (s.setCurve c points).sheets = s.sheets := rfl
@[simp] theorem State.setCurve_access (s : State) (c : CurveIx) (points : List Point) :
    (s.setCurve c points).access = s.access := rfl
@[simp] theorem State.setCurve_faults (s : State) (c : CurveIx) (points : List Point) :
    (s.setCurve c points).faults = s.faults := rfl
@[simp] theorem State.setCurve_restartPending (s : State) (c : CurveIx) (points : List Point) :
    (s.setCurve c points).restartPending = s.restartPending := rfl
@[simp] theorem State.setCurve_masters (s : State) (c : CurveIx) (points : List Point) :
    (s.setCurve c points).masters = s.masters := rfl
@[simp] theorem State.setCurve_towers (s : State) (c : CurveIx) (points : List Point) :
    (s.setCurve c points).towers = s.towers := rfl
@[simp] theorem State.setCurve_tower (s : State) (c : CurveIx) (points : List Point) (t : TowerIx) :
    (s.setCurve c points).tower t = s.tower t := rfl
@[simp] theorem State.setCurve_port (s : State) (c : CurveIx) (points : List Point) (p : MasterPort) :
    (s.setCurve c points).port p = s.port p := by cases p <;> rfl

@[simp] theorem State.setPort_pending (s : State) (p : MasterPort) (r : MasterPortRec) :
    (s.setPort p r).pending = s.pending := by cases p <;> rfl
@[simp] theorem State.setPort_sheets (s : State) (p : MasterPort) (r : MasterPortRec) :
    (s.setPort p r).sheets = s.sheets := by cases p <;> rfl
@[simp] theorem State.setPort_curves (s : State) (p : MasterPort) (r : MasterPortRec) :
    (s.setPort p r).curves = s.curves := by cases p <;> rfl
@[simp] theorem State.setPort_access (s : State) (p : MasterPort) (r : MasterPortRec) :
    (s.setPort p r).access = s.access := by cases p <;> rfl
@[simp] theorem State.setPort_faults (s : State) (p : MasterPort) (r : MasterPortRec) :
    (s.setPort p r).faults = s.faults := by cases p <;> rfl
@[simp] theorem State.setPort_restartPending (s : State) (p : MasterPort) (r : MasterPortRec) :
    (s.setPort p r).restartPending = s.restartPending := by cases p <;> rfl
@[simp] theorem State.setPort_towers (s : State) (p : MasterPort) (r : MasterPortRec) :
    (s.setPort p r).towers = s.towers := by cases p <;> rfl
@[simp] theorem State.setPort_tower (s : State) (p : MasterPort) (r : MasterPortRec) (t : TowerIx) :
    (s.setPort p r).tower t = s.tower t := by cases p <;> rfl
@[simp] theorem State.setPort_curve (s : State) (p : MasterPort) (r : MasterPortRec) (cv : CurveIx) :
    (s.setPort p r).curve cv = s.curve cv := by cases p <;> rfl

@[simp] theorem State.setFramer_pending (s : State) (p : MasterPort) (f : Framer) :
    (s.setFramer p f).pending = s.pending := by cases p <;> rfl
@[simp] theorem State.setFramer_sheets (s : State) (p : MasterPort) (f : Framer) :
    (s.setFramer p f).sheets = s.sheets := by cases p <;> rfl
@[simp] theorem State.setFramer_curves (s : State) (p : MasterPort) (f : Framer) :
    (s.setFramer p f).curves = s.curves := by cases p <;> rfl
@[simp] theorem State.setFramer_access (s : State) (p : MasterPort) (f : Framer) :
    (s.setFramer p f).access = s.access := by cases p <;> rfl
@[simp] theorem State.setFramer_faults (s : State) (p : MasterPort) (f : Framer) :
    (s.setFramer p f).faults = s.faults := by cases p <;> rfl
@[simp] theorem State.setFramer_restartPending (s : State) (p : MasterPort) (f : Framer) :
    (s.setFramer p f).restartPending = s.restartPending := by cases p <;> rfl
@[simp] theorem State.setFramer_towers (s : State) (p : MasterPort) (f : Framer) :
    (s.setFramer p f).towers = s.towers := by cases p <;> rfl
@[simp] theorem State.setFramer_tower (s : State) (p : MasterPort) (f : Framer) (t : TowerIx) :
    (s.setFramer p f).tower t = s.tower t := by cases p <;> rfl
@[simp] theorem State.setFramer_curve (s : State) (p : MasterPort) (f : Framer) (cv : CurveIx) :
    (s.setFramer p f).curve cv = s.curve cv := by cases p <;> rfl

@[simp] theorem State.setCtx_pending (s : State) (p : MasterPort) (c : WriteContext) :
    (s.setCtx p c).pending = s.pending := by cases p <;> rfl
@[simp] theorem State.setCtx_sheets (s : State) (p : MasterPort) (c : WriteContext) :
    (s.setCtx p c).sheets = s.sheets := by cases p <;> rfl
@[simp] theorem State.setCtx_curves (s : State) (p : MasterPort) (c : WriteContext) :
    (s.setCtx p c).curves = s.curves := by cases p <;> rfl
@[simp] theorem State.setCtx_access (s : State) (p : MasterPort) (c : WriteContext) :
    (s.setCtx p c).access = s.access := by cases p <;> rfl
@[simp] theorem State.setCtx_faults (s : State) (p : MasterPort) (c : WriteContext) :
    (s.setCtx p c).faults = s.faults := by cases p <;> rfl
@[simp] theorem State.setCtx_restartPending (s : State) (p : MasterPort) (c : WriteContext) :
    (s.setCtx p c).restartPending = s.restartPending := by cases p <;> rfl
@[simp] theorem State.setCtx_towers (s : State) (p : MasterPort) (c : WriteContext) :
    (s.setCtx p c).towers = s.towers := by cases p <;> rfl
@[simp] theorem State.setCtx_tower (s : State) (p : MasterPort) (c : WriteContext) (t : TowerIx) :
    (s.setCtx p c).tower t = s.tower t := by cases p <;> rfl
@[simp] theorem State.setCtx_curve (s : State) (p : MasterPort) (c : WriteContext) (cv : CurveIx) :
    (s.setCtx p c).curve cv = s.curve cv := by cases p <;> rfl

@[simp] theorem State.setCursor_pending (s : State) (p : MasterPort) (c : Cursor) :
    (s.setCursor p c).pending = s.pending := by cases p <;> rfl
@[simp] theorem State.setCursor_sheets (s : State) (p : MasterPort) (c : Cursor) :
    (s.setCursor p c).sheets = s.sheets := by cases p <;> rfl
@[simp] theorem State.setCursor_curves (s : State) (p : MasterPort) (c : Cursor) :
    (s.setCursor p c).curves = s.curves := by cases p <;> rfl
@[simp] theorem State.setCursor_access (s : State) (p : MasterPort) (c : Cursor) :
    (s.setCursor p c).access = s.access := by cases p <;> rfl
@[simp] theorem State.setCursor_faults (s : State) (p : MasterPort) (c : Cursor) :
    (s.setCursor p c).faults = s.faults := by cases p <;> rfl
@[simp] theorem State.setCursor_restartPending (s : State) (p : MasterPort) (c : Cursor) :
    (s.setCursor p c).restartPending = s.restartPending := by cases p <;> rfl
@[simp] theorem State.setCursor_towers (s : State) (p : MasterPort) (c : Cursor) :
    (s.setCursor p c).towers = s.towers := by cases p <;> rfl
@[simp] theorem State.setCursor_tower (s : State) (p : MasterPort) (c : Cursor) (t : TowerIx) :
    (s.setCursor p c).tower t = s.tower t := by cases p <;> rfl
@[simp] theorem State.setCursor_curve (s : State) (p : MasterPort) (c : Cursor) (cv : CurveIx) :
    (s.setCursor p c).curve cv = s.curve cv := by cases p <;> rfl

@[simp] theorem State.sendReply_pending (s : State) (p : MasterPort) (body : List Byte) :
    (s.sendReply p body).pending = s.pending := by cases p <;> rfl
@[simp] theorem State.sendReply_sheets (s : State) (p : MasterPort) (body : List Byte) :
    (s.sendReply p body).sheets = s.sheets := by cases p <;> rfl
@[simp] theorem State.sendReply_curves (s : State) (p : MasterPort) (body : List Byte) :
    (s.sendReply p body).curves = s.curves := by cases p <;> rfl
@[simp] theorem State.sendReply_access (s : State) (p : MasterPort) (body : List Byte) :
    (s.sendReply p body).access = s.access := by cases p <;> rfl
@[simp] theorem State.sendReply_faults (s : State) (p : MasterPort) (body : List Byte) :
    (s.sendReply p body).faults = s.faults := by cases p <;> rfl
@[simp] theorem State.sendReply_restartPending (s : State) (p : MasterPort) (body : List Byte) :
    (s.sendReply p body).restartPending = s.restartPending := by cases p <;> rfl
@[simp] theorem State.sendReply_towers (s : State) (p : MasterPort) (body : List Byte) :
    (s.sendReply p body).towers = s.towers := by cases p <;> rfl
@[simp] theorem State.sendReply_tower (s : State) (p : MasterPort) (body : List Byte) (t : TowerIx) :
    (s.sendReply p body).tower t = s.tower t := by cases p <;> rfl
@[simp] theorem State.sendReply_curve (s : State) (p : MasterPort) (body : List Byte) (cv : CurveIx) :
    (s.sendReply p body).curve cv = s.curve cv := by cases p <;> rfl

@[simp] theorem State.setFramer_port_same (s : State) (p : MasterPort) (f : Framer) :
    (s.setFramer p f).port p = { s.port p with framer := f } := by cases p <;> rfl
@[simp] theorem State.setCtx_port_same (s : State) (p : MasterPort) (c : WriteContext) :
    (s.setCtx p c).port p = { s.port p with ctx := c } := by cases p <;> rfl
@[simp] theorem State.setCursor_port_same (s : State) (p : MasterPort) (c : Cursor) :
    (s.setCursor p c).port p = { s.port p with cursor := c } := by cases p <;> rfl
@[simp] theorem State.sendReply_port_same (s : State) (p : MasterPort) (body : List Byte) :
    (s.sendReply p body).port p = { s.port p with framer := Framer.hunting, reply := some body } := by cases p <;> rfl
theorem State.setFramer_port_of_ne (s : State) {p q : MasterPort} (f : Framer) (h : q ≠ p) :
    (s.setFramer p f).port q = s.port q := State.port_setPort_of_ne s _ h
theorem State.setCtx_port_of_ne (s : State) {p q : MasterPort} (c : WriteContext) (h : q ≠ p) :
    (s.setCtx p c).port q = s.port q := State.port_setPort_of_ne s _ h
theorem State.setCursor_port_of_ne (s : State) {p q : MasterPort} (c : Cursor) (h : q ≠ p) :
    (s.setCursor p c).port q = s.port q := State.port_setPort_of_ne s _ h
theorem State.sendReply_port_of_ne (s : State) {p q : MasterPort} (body : List Byte) (h : q ≠ p) :
    (s.sendReply p body).port q = s.port q := State.port_setPort_of_ne s _ h
@[simp] theorem State.sendReply_busy_same (s : State) (p : MasterPort) (body : List Byte) :
    (s.sendReply p body).busy p = true := by cases p <;> rfl
@[simp] theorem State.setFramer_busy (s : State) (p q : MasterPort) (f : Framer) : (s.setFramer p f).busy q = s.busy q := by
  cases p <;> cases q <;> rfl

@[simp] theorem State.logFault_pending (s : State) (kind : FaultKind) (origin : Origin) :
    (s.logFault kind origin).pending = s.pending := rfl
@[simp] theorem State.logFault_sheets (s : State) (kind : FaultKind) (origin : Origin) :
    (s.logFault kind origin).sheets = s.sheets := rfl
@[simp] theorem State.logFault_curves (s : State) (kind : FaultKind) (origin : Origin) :
    (s.logFault kind origin).curves = s.curves := rfl
@[simp] theorem State.logFault_access (s : State) (kind : FaultKind) (origin : Origin) :
    (s.logFault kind origin).access = s.access := rfl
@[simp] theorem State.logFault_restartPending (s : State) (kind : FaultKind) (origin : Origin) :
    (s.logFault kind origin).restartPending = s.restartPending := rfl
@[simp] theorem State.logFault_masters (s : State) (kind : FaultKind) (origin : Origin) :
    (s.logFault kind origin).masters = s.masters := rfl
@[simp] theorem State.logFault_towers (s : State) (kind : FaultKind) (origin : Origin) :
    (s.logFault kind origin).towers = s.towers := rfl
@[simp] theorem State.logFault_tower (s : State) (kind : FaultKind) (origin : Origin) (t : TowerIx) :
    (s.logFault kind origin).tower t = s.tower t := rfl
@[simp] theorem State.logFault_curve (s : State) (kind : FaultKind) (origin : Origin) (c : CurveIx) :
    (s.logFault kind origin).curve c = s.curve c := rfl
@[simp] theorem State.logFault_port (s : State) (kind : FaultKind) (origin : Origin) (p : MasterPort) :
    (s.logFault kind origin).port p = s.port p := by cases p <;> rfl
@[simp] theorem State.logFault_busy (s : State) (kind : FaultKind) (origin : Origin) (p : MasterPort) :
    (s.logFault kind origin).busy p = s.busy p := by cases p <;> rfl
@[simp] theorem State.logFault_faults (s : State) (kind : FaultKind) (origin : Origin) :
    (s.logFault kind origin).faults = s.faults.log kind origin s.sheets := rfl

@[simp] theorem State.release_pending (s : State) (p : MasterPort) : (s.release p).pending = s.pending := by cases p <;> rfl
@[simp] theorem State.release_sheets (s : State) (p : MasterPort) : (s.release p).sheets = s.sheets := by cases p <;> rfl
@[simp] theorem State.release_curves (s : State) (p : MasterPort) : (s.release p).curves = s.curves := by cases p <;> rfl
@[simp] theorem State.release_access (s : State) (p : MasterPort) : (s.release p).access = s.access := by cases p <;> rfl
@[simp] theorem State.release_faults (s : State) (p : MasterPort) : (s.release p).faults = s.faults := by cases p <;> rfl
@[simp] theorem State.release_restartPending (s : State) (p : MasterPort) : (s.release p).restartPending = s.restartPending := by cases p <;> rfl
@[simp] theorem State.release_towers (s : State) (p : MasterPort) : (s.release p).towers = s.towers := by cases p <;> rfl
@[simp] theorem State.release_tower (s : State) (p : MasterPort) (t : TowerIx) : (s.release p).tower t = s.tower t := by
  cases p <;> rfl
@[simp] theorem State.release_port_same (s : State) (p : MasterPort) :
    (s.release p).port p = { s.port p with framer := Framer.hunting, reply := none } := by cases p <;> rfl
theorem State.release_port_of_ne (s : State) {p q : MasterPort} (h : q ≠ p) : (s.release p).port q = s.port q :=
  State.port_setPort_of_ne s _ h

@[simp] theorem State.resetContexts_pending (s : State) (t : TowerIx) (z : Nat) : (s.resetContexts t z).pending = s.pending := rfl
@[simp] theorem State.resetContexts_sheets (s : State) (t : TowerIx) (z : Nat) : (s.resetContexts t z).sheets = s.sheets := rfl
@[simp] theorem State.resetContexts_curves (s : State) (t : TowerIx) (z : Nat) : (s.resetContexts t z).curves = s.curves := rfl
@[simp] theorem State.resetContexts_access (s : State) (t : TowerIx) (z : Nat) : (s.resetContexts t z).access = s.access := rfl
@[simp] theorem State.resetContexts_faults (s : State) (t : TowerIx) (z : Nat) : (s.resetContexts t z).faults = s.faults := rfl
@[simp] theorem State.resetContexts_restartPending (s : State) (t : TowerIx) (z : Nat) : (s.resetContexts t z).restartPending = s.restartPending := rfl
@[simp] theorem State.resetContexts_towers (s : State) (t : TowerIx) (z : Nat) : (s.resetContexts t z).towers = s.towers := rfl
@[simp] theorem State.resetCursors_pending (s : State) (curve : CurveIx) : (s.resetCursors curve).pending = s.pending := rfl
@[simp] theorem State.resetCursors_sheets (s : State) (curve : CurveIx) : (s.resetCursors curve).sheets = s.sheets := rfl
@[simp] theorem State.resetCursors_curves (s : State) (curve : CurveIx) : (s.resetCursors curve).curves = s.curves := rfl
@[simp] theorem State.resetCursors_access (s : State) (curve : CurveIx) : (s.resetCursors curve).access = s.access := rfl
@[simp] theorem State.resetCursors_faults (s : State) (curve : CurveIx) : (s.resetCursors curve).faults = s.faults := rfl
@[simp] theorem State.resetCursors_restartPending (s : State) (curve : CurveIx) : (s.resetCursors curve).restartPending = s.restartPending := rfl
@[simp] theorem State.resetCursors_towers (s : State) (curve : CurveIx) : (s.resetCursors curve).towers = s.towers := rfl
@[simp] theorem State.resetContexts_tower (s : State) (t : TowerIx) (z : Nat) (u : TowerIx) :
    (s.resetContexts t z).tower u = s.tower u := rfl
@[simp] theorem State.resetContexts_port (s : State) (t : TowerIx) (z : Nat) (p : MasterPort) :
    (s.resetContexts t z).port p = { s.port p with ctx := (s.port p).ctx.resetFor t z } := by cases p <;> rfl
@[simp] theorem State.resetCursors_tower (s : State) (curve : CurveIx) (u : TowerIx) :
    (s.resetCursors curve).tower u = s.tower u := rfl
@[simp] theorem State.resetCursors_curve (s : State) (curve c : CurveIx) : (s.resetCursors curve).curve c = s.curve c := rfl
@[simp] theorem State.resetCursors_port (s : State) (curve : CurveIx) (p : MasterPort) :
    (s.resetCursors curve).port p = { s.port p with cursor := (s.port p).cursor.clearedFor curve } := by cases p <;> rfl

/-! ### What each update of a tower leaves -/

@[simp] theorem Tower.send_config (tw : Tower) (m : DriveMessage) : (tw.send m).config = tw.config := rfl
@[simp] theorem Tower.send_run (tw : Tower) (m : DriveMessage) : (tw.send m).run = tw.run := rfl
@[simp] theorem Tower.send_next (tw : Tower) (m : DriveMessage) : (tw.send m).next = tw.next := rfl
@[simp] theorem Tower.send_state (tw : Tower) (m : DriveMessage) : (tw.send m).state = tw.state := rfl
@[simp] theorem Tower.send_keys (tw : Tower) (m : DriveMessage) : (tw.send m).keys = tw.keys := rfl
@[simp] theorem Tower.send_queue (tw : Tower) (m : DriveMessage) : (tw.send m).queue = tw.queue := rfl
@[simp] theorem Tower.send_moving (tw : Tower) (m : DriveMessage) : (tw.send m).moving = tw.moving := rfl
@[simp] theorem Tower.send_sweep (tw : Tower) (m : DriveMessage) : (tw.send m).sweep = tw.sweep := rfl
@[simp] theorem Tower.send_lastSweep (tw : Tower) (m : DriveMessage) : (tw.send m).lastSweep = tw.lastSweep := rfl
@[simp] theorem Tower.send_counters (tw : Tower) (m : DriveMessage) : (tw.send m).counters = tw.counters := rfl
@[simp] theorem Tower.send_z (tw : Tower) (m : DriveMessage) : (tw.send m).z = tw.z := rfl

@[simp] theorem Tower.setFramer_config (tw : Tower) (f : Framer) : (tw.setFramer f).config = tw.config := rfl
@[simp] theorem Tower.setFramer_run (tw : Tower) (f : Framer) : (tw.setFramer f).run = tw.run := rfl
@[simp] theorem Tower.setFramer_next (tw : Tower) (f : Framer) : (tw.setFramer f).next = tw.next := rfl
@[simp] theorem Tower.setFramer_state (tw : Tower) (f : Framer) : (tw.setFramer f).state = tw.state := rfl
@[simp] theorem Tower.setFramer_keys (tw : Tower) (f : Framer) : (tw.setFramer f).keys = tw.keys := rfl
@[simp] theorem Tower.setFramer_queue (tw : Tower) (f : Framer) : (tw.setFramer f).queue = tw.queue := rfl
@[simp] theorem Tower.setFramer_moving (tw : Tower) (f : Framer) : (tw.setFramer f).moving = tw.moving := rfl
@[simp] theorem Tower.setFramer_sweep (tw : Tower) (f : Framer) : (tw.setFramer f).sweep = tw.sweep := rfl
@[simp] theorem Tower.setFramer_lastSweep (tw : Tower) (f : Framer) : (tw.setFramer f).lastSweep = tw.lastSweep := rfl
@[simp] theorem Tower.setFramer_counters (tw : Tower) (f : Framer) : (tw.setFramer f).counters = tw.counters := rfl
@[simp] theorem Tower.setFramer_z (tw : Tower) (f : Framer) : (tw.setFramer f).z = tw.z := rfl

@[simp] theorem Tower.updateKey_config (tw : Tower) (k : Nat) (f : KeyRec → KeyRec) : (tw.updateKey k f).config = tw.config := rfl
@[simp] theorem Tower.updateKey_run (tw : Tower) (k : Nat) (f : KeyRec → KeyRec) : (tw.updateKey k f).run = tw.run := rfl
@[simp] theorem Tower.updateKey_next (tw : Tower) (k : Nat) (f : KeyRec → KeyRec) : (tw.updateKey k f).next = tw.next := rfl
@[simp] theorem Tower.updateKey_state (tw : Tower) (k : Nat) (f : KeyRec → KeyRec) : (tw.updateKey k f).state = tw.state := rfl
@[simp] theorem Tower.updateKey_queue (tw : Tower) (k : Nat) (f : KeyRec → KeyRec) : (tw.updateKey k f).queue = tw.queue := rfl
@[simp] theorem Tower.updateKey_moving (tw : Tower) (k : Nat) (f : KeyRec → KeyRec) : (tw.updateKey k f).moving = tw.moving := rfl
@[simp] theorem Tower.updateKey_sweep (tw : Tower) (k : Nat) (f : KeyRec → KeyRec) : (tw.updateKey k f).sweep = tw.sweep := rfl
@[simp] theorem Tower.updateKey_lastSweep (tw : Tower) (k : Nat) (f : KeyRec → KeyRec) : (tw.updateKey k f).lastSweep = tw.lastSweep := rfl
@[simp] theorem Tower.updateKey_counters (tw : Tower) (k : Nat) (f : KeyRec → KeyRec) : (tw.updateKey k f).counters = tw.counters := rfl
@[simp] theorem Tower.updateKey_port (tw : Tower) (k : Nat) (f : KeyRec → KeyRec) : (tw.updateKey k f).port = tw.port := rfl
@[simp] theorem Tower.updateKey_z (tw : Tower) (k : Nat) (f : KeyRec → KeyRec) : (tw.updateKey k f).z = tw.z := rfl

@[simp] theorem Tower.setDrive_config (tw : Tower) (k : Nat) (d : Drive) : (tw.setDrive k d).config = tw.config := rfl
@[simp] theorem Tower.setDrive_run (tw : Tower) (k : Nat) (d : Drive) : (tw.setDrive k d).run = tw.run := rfl
@[simp] theorem Tower.setDrive_next (tw : Tower) (k : Nat) (d : Drive) : (tw.setDrive k d).next = tw.next := rfl
@[simp] theorem Tower.setDrive_state (tw : Tower) (k : Nat) (d : Drive) : (tw.setDrive k d).state = tw.state := rfl
@[simp] theorem Tower.setDrive_queue (tw : Tower) (k : Nat) (d : Drive) : (tw.setDrive k d).queue = tw.queue := rfl
@[simp] theorem Tower.setDrive_moving (tw : Tower) (k : Nat) (d : Drive) : (tw.setDrive k d).moving = tw.moving := rfl
@[simp] theorem Tower.setDrive_sweep (tw : Tower) (k : Nat) (d : Drive) : (tw.setDrive k d).sweep = tw.sweep := rfl
@[simp] theorem Tower.setDrive_lastSweep (tw : Tower) (k : Nat) (d : Drive) : (tw.setDrive k d).lastSweep = tw.lastSweep := rfl
@[simp] theorem Tower.setDrive_counters (tw : Tower) (k : Nat) (d : Drive) : (tw.setDrive k d).counters = tw.counters := rfl
@[simp] theorem Tower.setDrive_port (tw : Tower) (k : Nat) (d : Drive) : (tw.setDrive k d).port = tw.port := rfl
@[simp] theorem Tower.setDrive_z (tw : Tower) (k : Nat) (d : Drive) : (tw.setDrive k d).z = tw.z := rfl

@[simp] theorem Tower.settleAll_config (tw : Tower) (sheet : Sheet) : (tw.settleAll sheet).config = tw.config := rfl
@[simp] theorem Tower.settleAll_run (tw : Tower) (sheet : Sheet) : (tw.settleAll sheet).run = tw.run := rfl
@[simp] theorem Tower.settleAll_next (tw : Tower) (sheet : Sheet) : (tw.settleAll sheet).next = tw.next := rfl
@[simp] theorem Tower.settleAll_state (tw : Tower) (sheet : Sheet) : (tw.settleAll sheet).state = tw.state := rfl
@[simp] theorem Tower.settleAll_queue (tw : Tower) (sheet : Sheet) : (tw.settleAll sheet).queue = tw.queue := rfl
@[simp] theorem Tower.settleAll_moving (tw : Tower) (sheet : Sheet) : (tw.settleAll sheet).moving = tw.moving := rfl
@[simp] theorem Tower.settleAll_sweep (tw : Tower) (sheet : Sheet) : (tw.settleAll sheet).sweep = tw.sweep := rfl
@[simp] theorem Tower.settleAll_lastSweep (tw : Tower) (sheet : Sheet) : (tw.settleAll sheet).lastSweep = tw.lastSweep := rfl
@[simp] theorem Tower.settleAll_counters (tw : Tower) (sheet : Sheet) : (tw.settleAll sheet).counters = tw.counters := rfl
@[simp] theorem Tower.settleAll_port (tw : Tower) (sheet : Sheet) : (tw.settleAll sheet).port = tw.port := rfl
@[simp] theorem Tower.settleAll_z (tw : Tower) (sheet : Sheet) : (tw.settleAll sheet).z = tw.z := rfl

@[simp] theorem Tower.enqueue_config (tw : Tower) (k : Nat) : (tw.enqueue k).config = tw.config := rfl
@[simp] theorem Tower.enqueue_run (tw : Tower) (k : Nat) : (tw.enqueue k).run = tw.run := rfl
@[simp] theorem Tower.enqueue_next (tw : Tower) (k : Nat) : (tw.enqueue k).next = tw.next := rfl
@[simp] theorem Tower.enqueue_state (tw : Tower) (k : Nat) : (tw.enqueue k).state = tw.state := rfl
@[simp] theorem Tower.enqueue_moving (tw : Tower) (k : Nat) : (tw.enqueue k).moving = tw.moving := rfl
@[simp] theorem Tower.enqueue_sweep (tw : Tower) (k : Nat) : (tw.enqueue k).sweep = tw.sweep := rfl
@[simp] theorem Tower.enqueue_lastSweep (tw : Tower) (k : Nat) : (tw.enqueue k).lastSweep = tw.lastSweep := rfl
@[simp] theorem Tower.enqueue_counters (tw : Tower) (k : Nat) : (tw.enqueue k).counters = tw.counters := rfl
@[simp] theorem Tower.enqueue_port (tw : Tower) (k : Nat) : (tw.enqueue k).port = tw.port := rfl
@[simp] theorem Tower.enqueue_z (tw : Tower) (k : Nat) : (tw.enqueue k).z = tw.z := rfl

@[simp] theorem Tower.dequeue_config (tw : Tower) (k : Nat) : (tw.dequeue k).config = tw.config := rfl
@[simp] theorem Tower.dequeue_run (tw : Tower) (k : Nat) : (tw.dequeue k).run = tw.run := rfl
@[simp] theorem Tower.dequeue_next (tw : Tower) (k : Nat) : (tw.dequeue k).next = tw.next := rfl
@[simp] theorem Tower.dequeue_state (tw : Tower) (k : Nat) : (tw.dequeue k).state = tw.state := rfl
@[simp] theorem Tower.dequeue_moving (tw : Tower) (k : Nat) : (tw.dequeue k).moving = tw.moving := rfl
@[simp] theorem Tower.dequeue_sweep (tw : Tower) (k : Nat) : (tw.dequeue k).sweep = tw.sweep := rfl
@[simp] theorem Tower.dequeue_lastSweep (tw : Tower) (k : Nat) : (tw.dequeue k).lastSweep = tw.lastSweep := rfl
@[simp] theorem Tower.dequeue_counters (tw : Tower) (k : Nat) : (tw.dequeue k).counters = tw.counters := rfl
@[simp] theorem Tower.dequeue_port (tw : Tower) (k : Nat) : (tw.dequeue k).port = tw.port := rfl
@[simp] theorem Tower.dequeue_z (tw : Tower) (k : Nat) : (tw.dequeue k).z = tw.z := rfl

@[simp] theorem Tower.endMove_config (tw : Tower) (k : Nat) (d : Drive) : (tw.endMove k d).config = tw.config := rfl
@[simp] theorem Tower.endMove_run (tw : Tower) (k : Nat) (d : Drive) : (tw.endMove k d).run = tw.run := rfl
@[simp] theorem Tower.endMove_next (tw : Tower) (k : Nat) (d : Drive) : (tw.endMove k d).next = tw.next := rfl
@[simp] theorem Tower.endMove_state (tw : Tower) (k : Nat) (d : Drive) : (tw.endMove k d).state = tw.state := rfl
@[simp] theorem Tower.endMove_queue (tw : Tower) (k : Nat) (d : Drive) : (tw.endMove k d).queue = tw.queue := rfl
@[simp] theorem Tower.endMove_sweep (tw : Tower) (k : Nat) (d : Drive) : (tw.endMove k d).sweep = tw.sweep := rfl
@[simp] theorem Tower.endMove_lastSweep (tw : Tower) (k : Nat) (d : Drive) : (tw.endMove k d).lastSweep = tw.lastSweep := rfl
@[simp] theorem Tower.endMove_counters (tw : Tower) (k : Nat) (d : Drive) : (tw.endMove k d).counters = tw.counters := rfl
@[simp] theorem Tower.endMove_port (tw : Tower) (k : Nat) (d : Drive) : (tw.endMove k d).port = tw.port := rfl
@[simp] theorem Tower.endMove_z (tw : Tower) (k : Nat) (d : Drive) : (tw.endMove k d).z = tw.z := rfl

@[simp] theorem Tower.survey_config (tw : Tower) (k : Nat) : (tw.survey k).config = tw.config := rfl
@[simp] theorem Tower.survey_run (tw : Tower) (k : Nat) : (tw.survey k).run = tw.run := rfl
@[simp] theorem Tower.survey_next (tw : Tower) (k : Nat) : (tw.survey k).next = tw.next := rfl
@[simp] theorem Tower.survey_state (tw : Tower) (k : Nat) : (tw.survey k).state = tw.state := rfl
@[simp] theorem Tower.survey_queue (tw : Tower) (k : Nat) : (tw.survey k).queue = tw.queue := rfl
@[simp] theorem Tower.survey_moving (tw : Tower) (k : Nat) : (tw.survey k).moving = tw.moving := rfl
@[simp] theorem Tower.survey_sweep (tw : Tower) (k : Nat) : (tw.survey k).sweep = tw.sweep := rfl
@[simp] theorem Tower.survey_lastSweep (tw : Tower) (k : Nat) : (tw.survey k).lastSweep = tw.lastSweep := rfl
@[simp] theorem Tower.survey_counters (tw : Tower) (k : Nat) : (tw.survey k).counters = tw.counters := rfl
@[simp] theorem Tower.survey_z (tw : Tower) (k : Nat) : (tw.survey k).z = tw.z := rfl

@[simp] theorem Tower.send_port (tw : Tower) (m : DriveMessage) : (tw.send m).port = tw.port.send m := rfl
@[simp] theorem Tower.setFramer_port_framer (tw : Tower) (f : Framer) : (tw.setFramer f).port.framer = f := rfl
@[simp] theorem Tower.updateKey_keys (tw : Tower) (k : Nat) (f : KeyRec → KeyRec) :
    (tw.updateKey k f).keys = tw.keys.modify k f := rfl
@[simp] theorem Tower.setDrive_keys (tw : Tower) (k : Nat) (d : Drive) :
    (tw.setDrive k d).keys = tw.keys.modify k fun key => { key with drive := d } := rfl
@[simp] theorem Tower.settleAll_keys (tw : Tower) (sheet : Sheet) :
    (tw.settleAll sheet).keys = tw.keys.map fun key => { key with settleUntil := sheet } := rfl
@[simp] theorem Tower.enqueue_keys (tw : Tower) (k : Nat) :
    (tw.enqueue k).keys = tw.keys.modify k fun key => { key with drive := key.drive.toQueued } := rfl
@[simp] theorem Tower.enqueue_queue (tw : Tower) (k : Nat) : (tw.enqueue k).queue = tw.queue ++ [k] := rfl
@[simp] theorem Tower.dequeue_keys (tw : Tower) (k : Nat) :
    (tw.dequeue k).keys = tw.keys.modify k fun key => { key with drive := key.drive.toIdle } := rfl
@[simp] theorem Tower.dequeue_queue (tw : Tower) (k : Nat) : (tw.dequeue k).queue = tw.queue.filter (· != k) := rfl
@[simp] theorem Tower.endMove_keys (tw : Tower) (k : Nat) (d : Drive) :
    (tw.endMove k d).keys = tw.keys.modify k fun key => { key with drive := d } := rfl
@[simp] theorem Tower.endMove_moving (tw : Tower) (k : Nat) (d : Drive) : (tw.endMove k d).moving = tw.moving - 1 := rfl
@[simp] theorem Tower.survey_keys (tw : Tower) (k : Nat) :
    (tw.survey k).keys = tw.keys.modify k fun key => { key with drive := .unknown } := rfl
@[simp] theorem DrivePort.send_framer (d : DrivePort) (m : DriveMessage) : (d.send m).framer = d.framer := by
  cases d with | mk f o w => cases o <;> rfl

end Sys2Proof.Machine
end

