-- ==== Sys2Proof/Laws/Faults.lean ====
section
/-! SUPPORT. What logging a fault can do to the Fault List (R162), and that it keeps the list sound (R161). -/

namespace Sys2Proof.Machine

@[simp] theorem FaultRecord.merged_kind (sheet : Sheet) (r : FaultRecord) : (r.merged sheet).kind = r.kind := rfl
@[simp] theorem FaultRecord.merged_origin (sheet : Sheet) (r : FaultRecord) : (r.merged sheet).origin = r.origin := rfl
@[simp] theorem FaultRecord.merged_first (sheet : Sheet) (r : FaultRecord) : (r.merged sheet).first = r.first := rfl
@[simp] theorem FaultRecord.merged_last (sheet : Sheet) (r : FaultRecord) : (r.merged sheet).last = sheet := rfl

theorem FaultRecord.matches_iff (kind : FaultKind) (origin : Origin) (r : FaultRecord) :
    r.matches kind origin = true ↔ r.kind = kind ∧ r.origin = origin := by
  simp [FaultRecord.matches]

/-- The three cases of R162: a merge, a new record at the tail, or a dropped fault that sets FULL. -/
theorem FaultList.log_cases (l : FaultList) (kind : FaultKind) (origin : Origin) (sheet : Sheet) :
    (l.records.any (FaultRecord.matches kind origin) = true ∧
      l.log kind origin sheet =
        { l with records := l.records.map fun r => if r.matches kind origin then r.merged sheet else r }) ∨
    (l.records.any (FaultRecord.matches kind origin) = false ∧ l.records.length < 32 ∧
      l.log kind origin sheet =
        { l with records := l.records ++ [{ kind, origin, first := sheet, last := sheet, count := 1 }] }) ∨
    (l.records.any (FaultRecord.matches kind origin) = false ∧ 32 ≤ l.records.length ∧
      l.log kind origin sheet = { l with full := true }) := by
  unfold FaultList.log
  by_cases h : l.records.any (FaultRecord.matches kind origin) = true
  · exact .inl ⟨h, by rw [if_pos h]⟩
  · by_cases h2 : l.records.length < Config.maxFaultRecords
    · exact .inr (.inl ⟨by simpa using h, h2, by rw [if_neg h, if_pos h2]⟩)
    · exact .inr (.inr ⟨by simpa using h, by simpa using h2, by rw [if_neg h, if_neg h2]⟩)

/-- Logging a fault keeps the Fault List sound (R161). -/
theorem FaultList.log_sound {l : FaultList} (h : l.Sound) (kind : FaultKind) (origin : Origin) (sheet : Sheet) :
    (l.log kind origin sheet).Sound := by
  obtain ⟨hlen, hpair, hcount⟩ := h
  have hmap : ∀ r : FaultRecord, (if r.matches kind origin then r.merged sheet else r).kind = r.kind ∧
      (if r.matches kind origin then r.merged sheet else r).origin = r.origin := by
    intro r; split <;> simp
  rcases l.log_cases kind origin sheet with ⟨-, e⟩ | ⟨hnone, hroom, e⟩ | ⟨-, -, e⟩ <;> rw [e]
  · refine ⟨by simpa using hlen, ?_, ?_⟩
    · rw [List.pairwise_map]
      refine hpair.imp ?_
      intro a b hab
      rw [(hmap a).1, (hmap b).1, (hmap a).2, (hmap b).2]
      exact hab
    · intro r hr
      obtain ⟨r', hr', rfl⟩ := List.mem_map.mp hr
      have := hcount r' hr'
      split
      · unfold FaultRecord.merged; simp only; split <;> omega
      · exact this
  · refine ⟨by simp; omega, ?_, ?_⟩
    · rw [List.pairwise_append]
      refine ⟨hpair, by simp, ?_⟩
      intro a ha b hb
      have : b = { kind, origin, first := sheet, last := sheet, count := 1 } := by simpa using hb
      subst this
      have h2 := List.any_eq_false.mp hnone a ha
      rwa [FaultRecord.matches_iff] at h2
    · intro r hr
      rcases List.mem_append.mp hr with hr | hr
      · exact hcount r hr
      · have : r = { kind, origin, first := sheet, last := sheet, count := 1 } := by simpa using hr
        subst this; simp
  · exact ⟨hlen, hpair, hcount⟩

end Sys2Proof.Machine
end

