-- ==== Sys2Proof/Laws/KeyDrive.lean ====
section
/-! SUPPORT. What the Key Drive Unit's operations can do: each leaves the plates, the record and every key record but its drive
part (`Tower.DriveOnly`), and each keeps the laws of the queue and of the moving count (R124, R125, R127). -/

namespace Sys2Proof.Machine

/-! ### Counting keys after one record changed -/

theorem countP_modify {α : Type} (p : α → Bool) (f : α → α) {l : List α} {k : Nat} {a : α} (h : l[k]? = some a) :
    (l.modify k f).countP p + (p a).toNat = l.countP p + (p (f a)).toNat := by
  induction l generalizing k with
  | nil => simp at h
  | cons b l ih =>
    cases k with
    | zero =>
      obtain rfl : b = a := by simpa using h
      simp only [List.modify_zero_cons, List.countP_cons]
      cases p b <;> cases p (f b) <;> simp
    | succ k =>
      have := ih (k := k) (by simpa using h)
      simp only [List.modify_succ_cons, List.countP_cons]
      omega

theorem countP_pos_of_getElem? {α : Type} {p : α → Bool} {l : List α} {k : Nat} {a : α} (h : l[k]? = some a)
    (hp : p a = true) : 0 < l.countP p :=
  List.countP_pos_iff.mpr ⟨a, List.mem_of_getElem? h, hp⟩

/-- Changing a record to itself changes nothing. -/
theorem modify_eq_self {α : Type} {f : α → α} {l : List α} {k : Nat} (h : ∀ a, l[k]? = some a → f a = a) :
    l.modify k f = l := by
  apply List.ext_getElem?
  intro j
  rw [List.getElem?_modify]
  by_cases hj : k = j
  · subst hj
    cases ha : l[k]? with
    | none => simp
    | some a => simp [h a ha]
  · simp [hj]

/-- Two records have the same drive state wherever a list is changed at one key alone. -/
theorem getElem?_modify_self {α : Type} (f : α → α) (l : List α) (k : Nat) : (l.modify k f)[k]? = l[k]?.map f := by
  simp

theorem getElem?_modify_ne {α : Type} (f : α → α) (l : List α) {k j : Nat} (h : j ≠ k) : (l.modify k f)[j]? = l[j]? := by
  rw [List.getElem?_modify]
  simp [Ne.symm h]

/-! ### Only drive parts change -/

/-- A key record without its drive part. -/
def KeyRec.undriven (key : KeyRec) : KeyRec := { key with drive := .unknown }

theorem KeyRec.sameButDrive_iff (a b : KeyRec) : a.sameButDrive b ↔ b.undriven = a.undriven := by
  cases a; cases b
  simp [KeyRec.sameButDrive, KeyRec.undriven]

@[simp] theorem KeyRec.undriven_drive (key : KeyRec) (d : Drive) : KeyRec.undriven { key with drive := d } = key.undriven := rfl

theorem map_modify_of_eq {α β : Type} {g : α → β} {f : α → α} (h : ∀ a, g (f a) = g a) (l : List α) (k : Nat) :
    (l.modify k f).map g = l.map g := by
  apply List.ext_getElem?
  intro j
  simp only [List.getElem?_map, List.getElem?_modify]
  cases l[j]? with
  | none => rfl
  | some a => by_cases hj : k = j <;> simp [hj, h]

/-- The tower differs in nothing but drive parts, queue, moving count, tower state, last sweep sent and messages made. -/
def Tower.DriveOnly (tw tw' : Tower) : Prop := tw.SamePlates tw' ∧ tw'.keys.map KeyRec.undriven = tw.keys.map KeyRec.undriven

theorem Tower.DriveOnly.refl (tw : Tower) : tw.DriveOnly tw := ⟨⟨rfl, rfl, rfl, rfl, rfl, rfl⟩, rfl⟩

theorem Tower.DriveOnly.trans {a b c : Tower} (h : a.DriveOnly b) (h' : b.DriveOnly c) : a.DriveOnly c := by
  obtain ⟨⟨h1, h2, h3, h4, h5, h6⟩, hk⟩ := h
  obtain ⟨⟨g1, g2, g3, g4, g5, g6⟩, gk⟩ := h'
  exact ⟨⟨g1.trans h1, g2.trans h2, g3.trans h3, g4.trans h4, g5.trans h5, g6.trans h6⟩, gk.trans hk⟩

theorem Tower.DriveOnly.keys_length {a b : Tower} (h : a.DriveOnly b) : b.keys.length = a.keys.length := by
  simpa using congrArg List.length h.2

theorem Tower.DriveOnly.z {a b : Tower} (h : a.DriveOnly b) : b.z = a.z := by
  simp [Tower.z, h.1.1]

/-- Every key record is the one it was but for its drive part. -/
theorem Tower.DriveOnly.key {a b : Tower} (h : a.DriveOnly b) (k : Nat) :
    b.keys[k]?.map KeyRec.undriven = a.keys[k]?.map KeyRec.undriven := by
  simpa using congrArg (·[k]?) h.2

theorem Tower.driveOnly_send (tw : Tower) (m : DriveMessage) : tw.DriveOnly (tw.send m) :=
  ⟨⟨rfl, rfl, rfl, rfl, rfl, by simp⟩, rfl⟩

theorem Tower.driveOnly_updateKey (tw : Tower) (k : Nat) (f : KeyRec → KeyRec)
    (h : ∀ key, (f key).undriven = key.undriven) : tw.DriveOnly (tw.updateKey k f) :=
  ⟨⟨rfl, rfl, rfl, rfl, rfl, rfl⟩, map_modify_of_eq h _ _⟩

theorem Tower.driveOnly_setDrive (tw : Tower) (k : Nat) (d : Drive) : tw.DriveOnly (tw.setDrive k d) :=
  tw.driveOnly_updateKey k _ fun _ => rfl

theorem Tower.driveOnly_survey (tw : Tower) (k : Nat) : tw.DriveOnly (tw.survey k) :=
  (tw.driveOnly_setDrive k .unknown).trans (Tower.driveOnly_send _ _)

theorem Tower.driveOnly_surveyAll (tw : Tower) (ks : List Nat) : tw.DriveOnly (tw.surveyAll ks) := by
  induction ks generalizing tw with
  | nil => exact .refl _
  | cons k ks ih => exact (tw.driveOnly_survey k).trans (ih _)

theorem Tower.driveOnly_enqueue (tw : Tower) (k : Nat) : tw.DriveOnly (tw.enqueue k) :=
  ⟨⟨rfl, rfl, rfl, rfl, rfl, rfl⟩,
    (tw.driveOnly_updateKey k (fun key => { key with drive := key.drive.toQueued }) fun _ => rfl).2⟩

theorem Tower.driveOnly_dequeue (tw : Tower) (k : Nat) : tw.DriveOnly (tw.dequeue k) :=
  ⟨⟨rfl, rfl, rfl, rfl, rfl, rfl⟩,
    (tw.driveOnly_updateKey k (fun key => { key with drive := key.drive.toIdle }) fun _ => rfl).2⟩

theorem Tower.driveOnly_endMove (tw : Tower) (k : Nat) (d : Drive) : tw.DriveOnly (tw.endMove k d) :=
  ⟨⟨rfl, rfl, rfl, rfl, rfl, rfl⟩, (tw.driveOnly_setDrive k d).2⟩

theorem Tower.driveOnly_state (tw : Tower) (st : TowerState) : tw.DriveOnly { tw with state := st } :=
  ⟨⟨rfl, rfl, rfl, rfl, rfl, rfl⟩, rfl⟩

/-! ### Sweep check and drain check (R118, R120) -/

/-- The sweep check sends nothing, or sends the computed sweep (R120). -/
theorem Tower.sweepCheck_cases (tw : Tower) :
    (tw.sweepCheck = tw ∧ (tw.sweep = none ∨ tw.lastSweep = tw.sweep)) ∨
    ∃ v, tw.sweep = some v ∧ tw.lastSweep ≠ some v ∧ tw.sweepCheck = { tw.send (.sweep v) with lastSweep := some v } := by
  unfold Tower.sweepCheck
  cases h : tw.sweep with
  | none => exact .inl ⟨rfl, .inl rfl⟩
  | some v =>
    by_cases h2 : tw.lastSweep = some v
    · exact .inl ⟨by simp [h2], .inr h2⟩
    · exact .inr ⟨v, rfl, h2, by simp [h2]⟩

@[simp] theorem Tower.sweepCheck_keys (tw : Tower) : tw.sweepCheck.keys = tw.keys := by
  rcases tw.sweepCheck_cases with ⟨h, -⟩ | ⟨v, -, -, h⟩ <;> simp [h]
@[simp] theorem Tower.sweepCheck_queue (tw : Tower) : tw.sweepCheck.queue = tw.queue := by
  rcases tw.sweepCheck_cases with ⟨h, -⟩ | ⟨v, -, -, h⟩ <;> simp [h]
@[simp] theorem Tower.sweepCheck_moving (tw : Tower) : tw.sweepCheck.moving = tw.moving := by
  rcases tw.sweepCheck_cases with ⟨h, -⟩ | ⟨v, -, -, h⟩ <;> simp [h]
@[simp] theorem Tower.sweepCheck_state (tw : Tower) : tw.sweepCheck.state = tw.state := by
  rcases tw.sweepCheck_cases with ⟨h, -⟩ | ⟨v, -, -, h⟩ <;> simp [h]

theorem Tower.driveOnly_sweepCheck (tw : Tower) : tw.DriveOnly tw.sweepCheck := by
  rcases tw.sweepCheck_cases with ⟨h, -⟩ | ⟨v, -, -, h⟩ <;> rw [h]
  · exact .refl _
  · exact (tw.driveOnly_send (.sweep v)).trans ⟨⟨rfl, rfl, rfl, rfl, rfl, rfl⟩, rfl⟩

/-- The drain check leaves the tower, or a drained PRESETTING tower enters PRINTING with its sweep check (R118). -/
theorem Tower.drainCheck_cases (tw : Tower) :
    tw.drainCheck = tw ∨
    (tw.state = .presetting ∧ tw.queue = [] ∧ tw.moving = 0 ∧ tw.drainCheck = { tw with state := .printing }.sweepCheck) := by
  unfold Tower.drainCheck
  split
  · next h => exact .inr ⟨h.1, h.2.1, h.2.2, rfl⟩
  · exact .inl rfl

@[simp] theorem Tower.drainCheck_keys (tw : Tower) : tw.drainCheck.keys = tw.keys := by
  rcases tw.drainCheck_cases with h | ⟨-, -, -, h⟩ <;> simp [h]
@[simp] theorem Tower.drainCheck_queue (tw : Tower) : tw.drainCheck.queue = tw.queue := by
  rcases tw.drainCheck_cases with h | ⟨-, -, -, h⟩ <;> simp [h]
@[simp] theorem Tower.drainCheck_moving (tw : Tower) : tw.drainCheck.moving = tw.moving := by
  rcases tw.drainCheck_cases with h | ⟨-, -, -, h⟩ <;> simp [h]

theorem Tower.driveOnly_drainCheck (tw : Tower) : tw.DriveOnly tw.drainCheck := by
  rcases tw.drainCheck_cases with h | ⟨-, -, -, h⟩ <;> rw [h]
  · exact .refl _
  · exact (tw.driveOnly_state .printing).trans (Tower.driveOnly_sweepCheck _)

/-- The drain check takes a tower neither into nor out of DARK, and neither starts nor stops it running. -/
theorem Tower.drainCheck_state (tw : Tower) :
    tw.drainCheck.state = tw.state ∨ (tw.state = .presetting ∧ tw.drainCheck.state = .printing) := by
  rcases tw.drainCheck_cases with h | ⟨hs, -, -, h⟩ <;> simp [h]
  exact .inr hs

/-! ### Dispatch (R127) -/

/-- What one turn of dispatch does, and when (R127). -/
theorem Tower.dispatchHead_eq_some {tw tw' : Tower} (h : tw.dispatchHead = some tw') :
    ∃ k rest key position target, tw.queue = k :: rest ∧ tw.running = true ∧ tw.moving < tw.config.drive.concurrency ∧
      tw.keys[k]? = some key ∧ key.drive = .queued position ∧ key.target = some target ∧
      tw' = ({ tw with queue := rest, moving := tw.moving + 1 }.setDrive k
        (.moving position target.steps tw.config.drive.moveTimeout)).send (.move k target.steps) := by
  unfold Tower.dispatchHead at h
  split at h
  · cases h
  · next k rest hq =>
    split at h
    · next hc =>
      rw [Bool.and_eq_true, decide_eq_true_eq] at hc
      split at h
      · next key hk =>
        split at h
        · next position target hd ht =>
          exact ⟨k, rest, key, position, target, hq, hc.1, hc.2, hk, hd, ht, (Option.some.inj h).symm⟩
        · cases h
      · cases h
    · cases h

/-- A property that one turn of dispatch keeps is kept by the dispatch check. -/
theorem Tower.dispatch_keeps {Inv : Tower → Prop} (hstep : ∀ tw tw', Inv tw → tw.dispatchHead = some tw' → Inv tw')
    {tw : Tower} (h : Inv tw) : Inv tw.dispatch := by
  have : ∀ n tw, Inv tw → Inv (Tower.dispatchTurns n tw) := by
    intro n
    induction n with
    | zero => intro tw h; exact h
    | succ n ih =>
      intro tw h
      unfold Tower.dispatchTurns
      split
      · next tw' e => exact ih _ (hstep _ _ h e)
      · exact h
  exact this _ _ h

theorem Tower.driveOnly_dispatchHead {tw tw' : Tower} (h : tw.dispatchHead = some tw') : tw.DriveOnly tw' := by
  obtain ⟨k, rest, key, position, target, -, -, -, -, -, -, rfl⟩ := Tower.dispatchHead_eq_some h
  exact (Tower.DriveOnly.trans ⟨⟨rfl, rfl, rfl, rfl, rfl, rfl⟩, rfl⟩ (Tower.driveOnly_setDrive _ _ _)).trans
    (Tower.driveOnly_send _ _)

theorem Tower.driveOnly_dispatch (tw : Tower) : tw.DriveOnly tw.dispatch :=
  Tower.dispatch_keeps (Inv := tw.DriveOnly) (fun _ _ h e => h.trans (Tower.driveOnly_dispatchHead e)) (.refl _)

@[simp] theorem Tower.dispatch_state (tw : Tower) : tw.dispatch.state = tw.state :=
  Tower.dispatch_keeps (Inv := fun u => u.state = tw.state) (fun a b h e => by
    obtain ⟨k, rest, key, position, target, -, -, -, -, -, -, rfl⟩ := Tower.dispatchHead_eq_some e
    simpa using h) rfl

/-- A tower that is not running dispatches nothing (R127). -/
theorem Tower.dispatch_of_not_running {tw : Tower} (h : tw.running = false) : tw.dispatch = tw := by
  have : ∀ n, Tower.dispatchTurns n tw = tw := by
    intro n
    cases n with
    | zero => rfl
    | succ n =>
      unfold Tower.dispatchTurns
      split
      · next e =>
        obtain ⟨_, _, _, _, _, _, hr, _⟩ := Tower.dispatchHead_eq_some e
        rw [h] at hr; cases hr
      · rfl
  exact this _

/-- Dispatch from an empty queue does nothing (R127). -/
theorem Tower.dispatch_of_queue_nil {tw : Tower} (h : tw.queue = []) : tw.dispatch = tw := by
  simp [Tower.dispatch, h, Tower.dispatchTurns]

/-! ### Queueing a key (R126, R131, R135) -/

/-- A key that stands away from its target is IDLE and has a target elsewhere. -/
theorem Tower.isAway_iff (tw : Tower) (k : Nat) :
    tw.isAway k = true ↔ ∃ key position target, tw.keys[k]? = some key ∧ key.drive = .idle position ∧
      key.target = some target ∧ target.steps ≠ position := by
  unfold Tower.isAway
  cases hk : tw.keys[k]? with
  | none => simp
  | some key =>
    cases hd : key.drive <;> cases ht : key.target <;> simp [hd, ht]

theorem Tower.requeue_cases (tw : Tower) (k : Nat) :
    (tw.state ≠ .dark ∧ tw.isAway k = true ∧ tw.requeue k = tw.enqueue k) ∨
    ((tw.state = .dark ∨ tw.isAway k = false) ∧ tw.requeue k = tw) := by
  unfold Tower.requeue
  by_cases h1 : tw.state = .dark
  · exact .inr ⟨.inl h1, by simp [h1]⟩
  · cases h2 : tw.isAway k with
    | true => exact .inl ⟨h1, rfl, by simp [h1]⟩
    | false => exact .inr ⟨.inr rfl, by simp⟩

theorem Tower.seekTarget_cases (tw : Tower) (k : Nat) :
    (tw.state ≠ .dark ∧ tw.isAway k = true ∧ tw.seekTarget k = (tw.enqueue k).dispatch) ∨
    ((tw.state = .dark ∨ tw.isAway k = false) ∧ tw.seekTarget k = tw) := by
  unfold Tower.seekTarget
  by_cases h1 : tw.state = .dark
  · exact .inr ⟨.inl h1, by simp [h1]⟩
  · cases h2 : tw.isAway k with
    | true => exact .inl ⟨h1, rfl, by simp [h1]⟩
    | false => exact .inr ⟨.inr rfl, by simp⟩

theorem Tower.driveOnly_requeue (tw : Tower) (k : Nat) : tw.DriveOnly (tw.requeue k) := by
  rcases tw.requeue_cases k with ⟨-, -, h⟩ | ⟨-, h⟩ <;> rw [h]
  · exact tw.driveOnly_enqueue k
  · exact .refl _

theorem Tower.driveOnly_seekTarget (tw : Tower) (k : Nat) : tw.DriveOnly (tw.seekTarget k) := by
  rcases tw.seekTarget_cases k with ⟨-, -, h⟩ | ⟨-, h⟩ <;> rw [h]
  · exact (tw.driveOnly_enqueue k).trans (Tower.driveOnly_dispatch _)
  · exact .refl _

@[simp] theorem Tower.seekTarget_state (tw : Tower) (k : Nat) : (tw.seekTarget k).state = tw.state := by
  rcases tw.seekTarget_cases k with ⟨-, -, h⟩ | ⟨-, h⟩ <;> simp [h]

/-- The cases of a target change (R126). -/
theorem Tower.targetChange_cases (tw : Tower) (k : Nat) :
    ((tw.keys[k]?.map fun key => key.drive.state) = some .idle ∧ tw.targetChange k = tw.seekTarget k) ∨
    (∃ key position, tw.keys[k]? = some key ∧ key.drive = .queued position ∧ (key.steps = none ∨ key.steps = some position) ∧
      tw.targetChange k = (tw.dequeue k).drainCheck) ∨
    (∃ key position steps, tw.keys[k]? = some key ∧ key.drive = .queued position ∧ key.steps = some steps ∧
      steps ≠ position ∧ tw.targetChange k = tw) ∨
    ((tw.keys[k]?.map fun key => key.drive.state) ≠ some .idle ∧
      (tw.keys[k]?.map fun key => key.drive.state) ≠ some .queued ∧ tw.targetChange k = tw) := by
  unfold Tower.targetChange
  cases hk : tw.keys[k]? with
  | none => exact .inr (.inr (.inr (by simp)))
  | some key =>
    cases hd : key.drive with
    | idle position => exact .inl (by simp [hd, Drive.state])
    | queued position =>
      cases hs : key.steps with
      | none => exact .inr (.inl ⟨key, position, rfl, hd, .inl hs, by simp [hd, hs]⟩)
      | some steps =>
        by_cases e : steps = position
        · exact .inr (.inl ⟨key, position, rfl, hd, .inr (by rw [hs, e]), by simp [hd, hs, e]⟩)
        · exact .inr (.inr (.inl ⟨key, position, steps, rfl, hd, hs, e, by simp [hd, hs, e]⟩))
    | unknown => exact .inr (.inr (.inr (by simp [hd, Drive.state])))
    | moving position target timeout => exact .inr (.inr (.inr (by simp [hd, Drive.state])))
    | faulted kind position => exact .inr (.inr (.inr (by simp [hd, Drive.state])))

theorem Tower.driveOnly_targetChange (tw : Tower) (k : Nat) : tw.DriveOnly (tw.targetChange k) := by
  rcases tw.targetChange_cases k with ⟨-, h⟩ | ⟨_, _, -, -, -, h⟩ | ⟨_, _, _, -, -, -, -, h⟩ | ⟨-, -, h⟩ <;> rw [h]
  · exact tw.driveOnly_seekTarget k
  · exact (tw.driveOnly_dequeue k).trans (Tower.driveOnly_drainCheck _)
  · exact .refl _
  · exact .refl _

theorem Tower.driveOnly_sweepChange (tw : Tower) : tw.DriveOnly tw.sweepChange := by
  unfold Tower.sweepChange
  split
  · exact tw.driveOnly_sweepCheck
  · exact .refl _

theorem Tower.driveOnly_enqueueAway (tw : Tower) (ks : List Nat) : tw.DriveOnly (tw.enqueueAway ks) := by
  unfold Tower.enqueueAway
  induction ks generalizing tw with
  | nil => exact .refl _
  | cons k ks ih =>
    rw [List.foldl_cons]
    split
    · exact (tw.driveOnly_enqueue k).trans (ih _)
    · exact ih _

@[simp] theorem Tower.enqueueAway_state (tw : Tower) (ks : List Nat) : (tw.enqueueAway ks).state = tw.state := by
  unfold Tower.enqueueAway
  induction ks generalizing tw with
  | nil => rfl
  | cons k ks ih =>
    rw [List.foldl_cons, ih]
    split <;> simp

theorem Tower.driveOnly_afterMove (tw : Tower) : tw.DriveOnly tw.afterMove :=
  tw.driveOnly_dispatch.trans (Tower.driveOnly_drainCheck _)

theorem Tower.driveOnly_standsAt (tw : Tower) (k position : Nat) : tw.DriveOnly (tw.standsAt k position) :=
  (tw.driveOnly_setDrive k _).trans (Tower.driveOnly_seekTarget _ _)

theorem Tower.driveOnly_queuedAt (tw : Tower) (k position : Nat) : tw.DriveOnly (tw.queuedAt k position) := by
  unfold Tower.queuedAt
  split
  · split
    · exact ((tw.driveOnly_setDrive k _).trans (Tower.driveOnly_dequeue _ _)).trans (Tower.driveOnly_drainCheck _)
    · exact tw.driveOnly_setDrive k _
  · exact .refl _

theorem Tower.driveOnly_disengage_keys (tw : Tower) (ks : List Nat) :
    tw.DriveOnly (ks.foldl (fun tw k => tw.dequeue k) tw) := by
  induction ks generalizing tw with
  | nil => exact .refl _
  | cons k ks ih => exact (tw.driveOnly_dequeue k).trans (ih _)

theorem Tower.driveOnly_disengage (tw : Tower) : tw.DriveOnly tw.disengage :=
  ((tw.driveOnly_state .dark).trans (Tower.driveOnly_disengage_keys _ _)).trans ⟨⟨rfl, rfl, rfl, rfl, rfl, rfl⟩, rfl⟩

theorem Tower.driveOnly_release (tw : Tower) : tw.DriveOnly tw.release :=
  ((tw.driveOnly_state _).trans (Tower.driveOnly_sweepCheck _)).trans (Tower.driveOnly_dispatch _)

end Sys2Proof.Machine
end

