-- ==== Sys2Proof/Laws/Queue.lean ====
section
/-! SUPPORT. The laws of the move queue and the moving count (R124, R125, R127), operation by operation.

`Tower.CoreSound` is what R124 and R125 say of one tower; `Tower.AwayExcept k` is R127's "a QUEUED key stands away from its
target" for every key but k. Together they are the invariants `QueueSound` and `MovingSound`. -/

namespace Sys2Proof.Machine

/-- The drive states of a tower's keys. -/
def Tower.states (tw : Tower) : List DriveState := tw.keys.map fun key => key.drive.state

theorem Tower.getElem?_states (tw : Tower) (k : Nat) : tw.states[k]? = tw.keys[k]?.map fun key => key.drive.state := by
  simp [Tower.states]

theorem Tower.isQueued_iff (tw : Tower) (k : Nat) : tw.isQueued k = true ↔ tw.states[k]? = some .queued := by
  simp [Tower.isQueued, Tower.getElem?_states]

theorem Tower.countIn_eq (tw : Tower) (d : DriveState) : tw.countIn d = tw.states.count d := by
  simp [Tower.countIn, Tower.states, List.count, List.countP_map, Function.comp_def]

theorem Tower.states_setDrive (tw : Tower) (k : Nat) (d : Drive) : (tw.setDrive k d).states = tw.states.set k d.state := by
  apply List.ext_getElem?
  intro j
  simp only [Tower.setDrive_keys, List.getElem?_modify, List.getElem?_set, Tower.states,
    List.length_map, List.getElem?_map]
  by_cases hj : k = j
  · subst hj
    by_cases hl : k < tw.keys.length
    · simp [hl]
    · simp [hl]
  · simp [hj]

theorem count_set {l : List DriveState} {k : Nat} {a : DriveState} (h : l[k]? = some a) (b d : DriveState) :
    (l.set k b).count d + (if a = d then 1 else 0) = l.count d + (if b = d then 1 else 0) := by
  induction l generalizing k with
  | nil => simp at h
  | cons c l ih =>
    cases k with
    | zero =>
      obtain rfl : c = a := by simpa using h
      simp only [List.set_cons_zero, List.count_cons, beq_iff_eq]
      omega
    | succ k =>
      have := ih (k := k) (by simpa using h)
      simp only [List.set_cons_succ, List.count_cons, beq_iff_eq]
      omega

/-- What R124 and R125 say of a tower. -/
def Tower.CoreSound (tw : Tower) : Prop :=
  tw.queue.Nodup ∧ (∀ k, k ∈ tw.queue ↔ tw.states[k]? = some .queued) ∧ (tw.state = .dark → tw.queue = []) ∧
    tw.moving = tw.states.count .moving ∧ tw.moving ≤ tw.config.drive.concurrency

/-- Every QUEUED key but k stands away from its target (R127). -/
def Tower.AwayExcept (tw : Tower) (k : Nat) : Prop := ∀ j key, j ≠ k → tw.keys[j]? = some key → key.QueuedSound

/-- Every QUEUED key stands away from its target (R127). -/
def Tower.Away (tw : Tower) : Prop := ∀ key ∈ tw.keys, key.QueuedSound

/-- The invariants of the queue and of the moving count, in the form the operations keep. -/
theorem Tower.driveSound_iff (tw : Tower) : tw.QueueSound ∧ tw.MovingSound ↔ tw.CoreSound ∧ tw.Away := by
  simp only [Tower.QueueSound, Tower.MovingSound, Tower.CoreSound, Tower.Away, Tower.isQueued_iff, Tower.countIn_eq]
  tauto

theorem Tower.Away.except {tw : Tower} (h : tw.Away) (k : Nat) : tw.AwayExcept k :=
  fun _ _ _ hk => h _ (List.mem_of_getElem? hk)

theorem Tower.away_of_except {tw : Tower} {k : Nat} (h : tw.AwayExcept k)
    (hk : ∀ key, tw.keys[k]? = some key → key.QueuedSound) : tw.Away := by
  intro key hmem
  obtain ⟨j, hj⟩ := List.getElem?_of_mem hmem
  by_cases e : j = k
  · subst e; exact hk key hj
  · exact h j key e hj

theorem KeyRec.queuedSound_of_state {key : KeyRec} (h : key.drive.state ≠ .queued) : key.QueuedSound := by
  unfold KeyRec.QueuedSound
  split
  · next hd => rw [hd] at h; exact absurd rfl h
  · trivial

/-- Nothing that R124 and R125 speak of changed. -/
theorem Tower.CoreSound.congr {tw tw' : Tower} (h : tw.CoreSound) (hq : tw'.queue = tw.queue) (hm : tw'.moving = tw.moving)
    (hc : tw'.config = tw.config) (hk : tw'.states = tw.states) (hs : tw'.state = .dark → tw.state = .dark) :
    tw'.CoreSound := by
  obtain ⟨h1, h2, h3, h4, h5⟩ := h
  exact ⟨by rwa [hq], by simpa only [hq, hk] using h2, fun e => by rw [hq]; exact h3 (hs e), by rw [hm, hk]; exact h4,
    by rw [hm, hc]; exact h5⟩

theorem Tower.CoreSound.sweepCheck {tw : Tower} (h : tw.CoreSound) : tw.sweepCheck.CoreSound :=
  h.congr (by simp) (by simp) tw.driveOnly_sweepCheck.1.1 (by simp [Tower.states]) (by simp)

theorem Tower.CoreSound.drainCheck {tw : Tower} (h : tw.CoreSound) : tw.drainCheck.CoreSound := by
  refine h.congr (by simp) (by simp) tw.driveOnly_drainCheck.1.1 (by simp [Tower.states]) ?_
  rcases tw.drainCheck_state with e | ⟨-, e⟩ <;> rw [e]
  · exact id
  · intro e; cases e

theorem Tower.Away.drainCheck {tw : Tower} (h : tw.Away) : tw.drainCheck.Away := by simpa [Tower.Away] using h

theorem Tower.Away.sweepCheck {tw : Tower} (h : tw.Away) : tw.sweepCheck.Away := by simpa [Tower.Away] using h

/-- A key that is not QUEUED changes to a drive part that is not QUEUED, and MOVING neither begins nor ends. -/
theorem Tower.CoreSound.setDrive {tw : Tower} (h : tw.CoreSound) {k : Nat} {a : DriveState} (ha : tw.states[k]? = some a)
    {d : Drive} (hq : a = .queued ↔ d.state = .queued) (hm : a = .moving ↔ d.state = .moving) :
    (tw.setDrive k d).CoreSound := by
  obtain ⟨h1, h2, h3, h4, h5⟩ := h
  have hlt : k < tw.states.length := (List.getElem?_eq_some_iff.mp ha).1
  refine ⟨h1, fun j => ?_, h3, ?_, h5⟩
  · rw [Tower.states_setDrive, Tower.setDrive_queue, h2 j, List.getElem?_set]
    by_cases hj : k = j
    · subst hj; rw [ha]; simp [hlt, hq]
    · simp [hj]
  · rw [Tower.states_setDrive, Tower.setDrive_moving, h4]
    have := count_set ha d.state .moving
    simp only [hm] at this
    omega

theorem Tower.AwayExcept.updateKey {tw : Tower} {k : Nat} (h : tw.AwayExcept k) (f : KeyRec → KeyRec) :
    (tw.updateKey k f).AwayExcept k := by
  intro j key hj hk
  rw [Tower.updateKey_keys, getElem?_modify_ne _ _ hj] at hk
  exact h j key hj hk

/-- A key enters the queue (R124): it was IDLE, and the tower is not DARK. -/
theorem Tower.CoreSound.enqueue {tw : Tower} (h : tw.CoreSound) {k : Nat} (ha : tw.states[k]? = some .idle)
    (hs : tw.state ≠ .dark) : (tw.enqueue k).CoreSound ∧ (tw.enqueue k).states = tw.states.set k .queued := by
  obtain ⟨h1, h2, h3, h4, h5⟩ := h
  have hlt : k < tw.states.length := (List.getElem?_eq_some_iff.mp ha).1
  have hst : (tw.enqueue k).states = tw.states.set k .queued := by
    rw [Tower.getElem?_states] at ha
    obtain ⟨key, hkey, hd⟩ := Option.map_eq_some_iff.mp ha
    apply List.ext_getElem?
    intro j
    simp only [Tower.enqueue_keys, List.getElem?_modify, List.getElem?_set, Tower.states,
      List.length_map, List.getElem?_map]
    have hlt' : k < tw.keys.length := by simpa [Tower.states] using hlt
    by_cases hj : k = j
    · subst hj
      rw [hkey]
      cases hdr : key.drive <;> rw [hdr] at hd <;> simp_all [Drive.state, Drive.toQueued]
    · simp [hj]
  have hnot : k ∉ tw.queue := by rw [h2 k, ha]; simp
  refine ⟨⟨?_, fun j => ?_, fun e => absurd e hs, ?_, h5⟩, hst⟩
  · rw [Tower.enqueue_queue]
    refine List.nodup_append.mpr ⟨h1, by simp, fun a ha' b hb e => hnot ?_⟩
    rw [← List.mem_singleton.mp hb, ← e]
    exact ha'
  · rw [hst, Tower.enqueue_queue, List.mem_append, List.mem_singleton, h2 j, List.getElem?_set]
    by_cases hj : k = j
    · subst hj; simp [hlt]
    · simp [hj, Ne.symm hj]
  · rw [hst, Tower.enqueue_moving, h4]
    have := count_set ha DriveState.queued .moving
    simpa using this.symm

/-- A QUEUED key leaves the queue (R126, R135). -/
theorem Tower.CoreSound.dequeue {tw : Tower} (h : tw.CoreSound) {k : Nat} (ha : tw.states[k]? = some .queued) :
    (tw.dequeue k).CoreSound ∧ (tw.dequeue k).states = tw.states.set k .idle := by
  obtain ⟨h1, h2, h3, h4, h5⟩ := h
  have hlt : k < tw.states.length := (List.getElem?_eq_some_iff.mp ha).1
  have hst : (tw.dequeue k).states = tw.states.set k .idle := by
    rw [Tower.getElem?_states] at ha
    obtain ⟨key, hkey, hd⟩ := Option.map_eq_some_iff.mp ha
    apply List.ext_getElem?
    intro j
    simp only [Tower.dequeue_keys, List.getElem?_modify, List.getElem?_set, Tower.states,
      List.length_map, List.getElem?_map]
    have hlt' : k < tw.keys.length := by simpa [Tower.states] using hlt
    by_cases hj : k = j
    · subst hj
      rw [hkey]
      cases hdr : key.drive <;> rw [hdr] at hd <;> simp_all [Drive.state, Drive.toIdle]
    · simp [hj]
  refine ⟨⟨h1.filter _, fun j => ?_, fun e => by rw [Tower.dequeue_queue, h3 e]; rfl, ?_, h5⟩, hst⟩
  · rw [hst, Tower.dequeue_queue, List.mem_filter, h2 j, List.getElem?_set]
    by_cases hj : k = j
    · subst hj; simp [hlt]
    · simp [hj, Ne.symm hj]
  · rw [hst, Tower.dequeue_moving, h4]
    have := count_set ha DriveState.idle .moving
    simpa using this.symm

/-- A move ends (R125, R131 to R133): the key was MOVING and its new drive part is neither QUEUED nor MOVING. -/
theorem Tower.CoreSound.endMove {tw : Tower} (h : tw.CoreSound) {k : Nat} (ha : tw.states[k]? = some .moving) {d : Drive}
    (hq : d.state ≠ .queued) (hm : d.state ≠ .moving) : (tw.endMove k d).CoreSound := by
  obtain ⟨h1, h2, h3, h4, h5⟩ := h
  have hlt : k < tw.states.length := (List.getElem?_eq_some_iff.mp ha).1
  have hst : (tw.endMove k d).states = tw.states.set k d.state := tw.states_setDrive k d
  refine ⟨h1, fun j => ?_, h3, ?_, ?_⟩
  · rw [hst, Tower.endMove_queue, h2 j, List.getElem?_set]
    by_cases hj : k = j
    · subst hj; rw [ha]; simp [hlt, hq]
    · simp [hj]
  · rw [hst, Tower.endMove_moving, h4]
    have := count_set ha d.state .moving
    simp only [hm, if_false, if_true] at this
    omega
  · simp only [Tower.endMove_moving, Tower.endMove_config]; omega

/-- One turn of dispatch keeps the laws (R127). -/
theorem Tower.CoreSound.dispatchHead {tw tw' : Tower} (h : tw.CoreSound) (e : tw.dispatchHead = some tw') :
    tw'.CoreSound := by
  obtain ⟨k, rest, key, position, target, hqueue, hrun, hlt, hkey, hdrive, -, rfl⟩ := Tower.dispatchHead_eq_some e
  obtain ⟨h1, h2, h3, h4, h5⟩ := h
  have ha : tw.states[k]? = some .queued := by rw [Tower.getElem?_states, hkey]; simp [hdrive, Drive.state]
  have hl : k < tw.states.length := (List.getElem?_eq_some_iff.mp ha).1
  have hnd : k ∉ rest ∧ rest.Nodup := by simpa [hqueue] using h1
  have hst : ((({ tw with queue := rest, moving := tw.moving + 1 }.setDrive k
      (.moving position target.steps tw.config.drive.moveTimeout)).send (.move k target.steps)).states) =
      tw.states.set k .moving := Tower.states_setDrive _ k _
  refine ⟨hnd.2, fun j => ?_, fun hd => ?_, ?_, ?_⟩
  · rw [hst, List.getElem?_set]
    by_cases hj : k = j
    · subst hj; simpa [hl] using hnd.1
    · have := h2 j
      rw [hqueue, List.mem_cons] at this
      simpa [hj, Ne.symm hj] using this
  · have hd' : tw.state = .dark := hd
    simp [Tower.running, hd'] at hrun
  · rw [hst]
    have := count_set ha DriveState.moving .moving
    simp at this
    simp [h4]
    omega
  · simpa using hlt

theorem Tower.Away.dispatchHead {tw tw' : Tower} (h : tw.Away) (e : tw.dispatchHead = some tw') : tw'.Away := by
  obtain ⟨k, rest, key, position, target, -, -, -, -, -, -, rfl⟩ := Tower.dispatchHead_eq_some e
  refine Tower.away_of_except (k := k) (Tower.AwayExcept.updateKey (tw := { tw with queue := rest, moving := tw.moving + 1 })
    (fun j key' _ hk => h key' (List.mem_of_getElem? hk)) _) ?_
  intro key' hk
  have : ∃ a : KeyRec, key' = { a with drive := .moving position target.steps tw.config.drive.moveTimeout } := by
    simp only [Tower.send_keys, Tower.setDrive_keys, getElem?_modify_self] at hk
    obtain ⟨a, -, ha⟩ := Option.map_eq_some_iff.mp hk
    exact ⟨a, ha.symm⟩
  obtain ⟨a, rfl⟩ := this
  exact KeyRec.queuedSound_of_state (by simp [Drive.state])

theorem Tower.CoreSound.dispatch {tw : Tower} (h : tw.CoreSound) : tw.dispatch.CoreSound :=
  Tower.dispatch_keeps (fun _ _ h e => h.dispatchHead e) h

theorem Tower.Away.dispatch {tw : Tower} (h : tw.Away) : tw.dispatch.Away :=
  Tower.dispatch_keeps (fun _ _ h e => h.dispatchHead e) h

theorem Tower.states_of_isAway {tw : Tower} {k : Nat} (h : tw.isAway k = true) : tw.states[k]? = some .idle := by
  obtain ⟨key, position, target, hk, hd, -, -⟩ := (tw.isAway_iff k).mp h
  rw [Tower.getElem?_states, hk]; simp [hd, Drive.state]

/-- A key that stands away from its target and is queued is QUEUED away from its target. -/
theorem Tower.Away.enqueue {tw : Tower} {k : Nat} (h : tw.AwayExcept k) (ha : tw.isAway k = true) : (tw.enqueue k).Away := by
  obtain ⟨key, position, target, hk, hd, ht, hne⟩ := (tw.isAway_iff k).mp ha
  refine Tower.away_of_except (k := k) (h.updateKey _) ?_
  intro key' hk'
  rw [Tower.enqueue_keys, getElem?_modify_self, hk] at hk'
  obtain rfl : _ = key' := Option.some.inj hk'
  simp [KeyRec.QueuedSound, hd, Drive.toQueued, KeyRec.steps, ht, hne]

theorem Tower.Away.dequeue {tw : Tower} {k : Nat} (h : tw.AwayExcept k) : (tw.dequeue k).Away := by
  refine Tower.away_of_except (k := k) (h.updateKey _) ?_
  intro key' hk'
  rw [Tower.dequeue_keys, getElem?_modify_self] at hk'
  obtain ⟨a, -, rfl⟩ := Option.map_eq_some_iff.mp hk'
  apply KeyRec.queuedSound_of_state
  cases a.drive <;> simp [Drive.toIdle, Drive.state]

theorem Tower.driveSound_seekTarget {tw : Tower} {k : Nat} (h : tw.CoreSound) (ha : tw.AwayExcept k)
    (hi : tw.states[k]? ≠ some .queued) : (tw.seekTarget k).CoreSound ∧ (tw.seekTarget k).Away := by
  rcases tw.seekTarget_cases k with ⟨hs, haway, e⟩ | ⟨-, e⟩ <;> rw [e]
  · exact ⟨(h.enqueue (Tower.states_of_isAway haway) hs).1.dispatch, (Tower.Away.enqueue ha haway).dispatch⟩
  · refine ⟨h, Tower.away_of_except ha fun key hk => KeyRec.queuedSound_of_state fun hq => hi ?_⟩
    rw [Tower.getElem?_states, hk, Option.map_some, hq]

theorem Tower.driveSound_requeue {tw : Tower} {k : Nat} (h : tw.CoreSound) (ha : tw.AwayExcept k)
    (hi : tw.states[k]? ≠ some .queued) : (tw.requeue k).CoreSound ∧ (tw.requeue k).Away := by
  rcases tw.requeue_cases k with ⟨hs, haway, e⟩ | ⟨-, e⟩ <;> rw [e]
  · exact ⟨(h.enqueue (Tower.states_of_isAway haway) hs).1, Tower.Away.enqueue ha haway⟩
  · refine ⟨h, Tower.away_of_except ha fun key hk => KeyRec.queuedSound_of_state fun hq => hi ?_⟩
    rw [Tower.getElem?_states, hk, Option.map_some, hq]

/-- A target change makes the queue sound again after the key's target alone changed (R126). -/
theorem Tower.driveSound_targetChange {tw : Tower} {k : Nat} (h : tw.CoreSound) (ha : tw.AwayExcept k) :
    (tw.targetChange k).CoreSound ∧ (tw.targetChange k).Away := by
  rcases tw.targetChange_cases k with ⟨hi, e⟩ | ⟨key, position, hk, hd, -, e⟩ | ⟨key, position, steps, hk, hd, hs, hne, e⟩ |
      ⟨-, hq, e⟩ <;> rw [e]
  · exact Tower.driveSound_seekTarget h ha (by rw [Tower.getElem?_states, hi]; simp)
  · have hq : tw.states[k]? = some .queued := by rw [Tower.getElem?_states, hk]; simp [hd, Drive.state]
    exact ⟨(h.dequeue hq).1.drainCheck, (Tower.Away.dequeue ha).drainCheck⟩
  · refine ⟨h, Tower.away_of_except ha fun key' hk' => ?_⟩
    obtain rfl : key = key' := by rw [hk] at hk'; exact Option.some.inj hk'
    simp [KeyRec.QueuedSound, hd, hs, hne]
  · refine ⟨h, Tower.away_of_except ha fun key' hk' => KeyRec.queuedSound_of_state fun e' => hq ?_⟩
    rw [hk', Option.map_some, e']

/-! ### A PRESETTING tower has a key waiting or moving (R118) -/

theorem Tower.PresettingSound.of_state {tw : Tower} (h : tw.state ≠ .presetting) : tw.PresettingSound := fun e => absurd e h

theorem Tower.PresettingSound.congr {tw tw' : Tower} (h : tw.PresettingSound) (hs : tw'.state = tw.state)
    (hq : tw'.queue = tw.queue) (hm : tw'.moving = tw.moving) : tw'.PresettingSound := by
  unfold Tower.PresettingSound; rw [hs, hq, hm]; exact h

/-- After a drain check a tower is PRESETTING only with a key waiting or moving, whatever it was before. -/
theorem Tower.presettingSound_drainCheck (tw : Tower) : tw.drainCheck.PresettingSound := by
  unfold Tower.drainCheck
  split
  · exact .of_state (by simp)
  · next h =>
    intro hs
    by_cases hq : tw.queue = []
    · exact .inr (Nat.pos_of_ne_zero fun hm => h ⟨hs, hq, hm⟩)
    · exact .inl hq

theorem Tower.PresettingSound.sweepCheck {tw : Tower} (h : tw.PresettingSound) : tw.sweepCheck.PresettingSound :=
  h.congr (by simp) (by simp) (by simp)

theorem Tower.PresettingSound.sweepChange {tw : Tower} (h : tw.PresettingSound) : tw.sweepChange.PresettingSound := by
  unfold Tower.sweepChange
  split
  · exact h.sweepCheck
  · exact h

/-- A turn of dispatch leaves a key MOVING. -/
theorem Tower.PresettingSound.dispatch {tw : Tower} (h : tw.PresettingSound) : tw.dispatch.PresettingSound := by
  refine Tower.dispatch_keeps (fun tw tw' _ e => ?_) h
  obtain ⟨_, _, _, _, _, -, -, -, -, -, -, rfl⟩ := Tower.dispatchHead_eq_some e
  exact fun _ => .inr (by simp)

theorem Tower.PresettingSound.seekTarget {tw : Tower} (h : tw.PresettingSound) (k : Nat) :
    (tw.seekTarget k).PresettingSound := by
  rcases tw.seekTarget_cases k with ⟨-, -, e⟩ | ⟨-, e⟩ <;> rw [e]
  · exact Tower.PresettingSound.dispatch fun _ => .inl (by simp)
  · exact h

theorem Tower.PresettingSound.targetChange {tw : Tower} (h : tw.PresettingSound) (k : Nat) :
    (tw.targetChange k).PresettingSound := by
  rcases tw.targetChange_cases k with ⟨-, e⟩ | ⟨_, _, -, -, -, e⟩ | ⟨_, _, _, -, -, -, -, e⟩ | ⟨-, -, e⟩ <;> rw [e]
  · exact h.seekTarget k
  · exact Tower.presettingSound_drainCheck _
  · exact h
  · exact h

end Sys2Proof.Machine
end

