-- ==== Sys2Proof/Laws/Preset.lean ====
section
/-! SUPPORT. What a refresh can do (R55, R57): which fields it leaves, what it writes in each key record, and that it keeps the
laws of the queue, of the moving count and of the targets. -/

namespace Sys2Proof.Machine

/-! ### The computation reads the plates and the record alone (R76) -/

theorem Tower.SamePlates.presetKey {a b : Tower} (h : a.SamePlates b) (curves : Vector (List Point) 16) (k : Nat)
    (key : KeyRec) : b.presetKey curves k key = a.presetKey curves k key := by
  obtain ⟨hc, hr, -, -, -, -⟩ := h
  cases a; cases b
  simp only at hc hr
  subst hc hr
  rfl

/-- The drive part of a key enters neither its target nor its effective coverage. -/
theorem Tower.presetKey_undriven (tw : Tower) (curves : Vector (List Point) 16) (k : Nat) (key : KeyRec) :
    (tw.presetKey curves k key.undriven).undriven = (tw.presetKey curves k key).undriven := by
  unfold Tower.presetKey
  split <;> rfl

@[simp] theorem Tower.presetKey_drive (tw : Tower) (curves : Vector (List Point) 16) (k : Nat) (key : KeyRec) :
    (tw.presetKey curves k key).drive = key.drive := by
  unfold Tower.presetKey; split <;> rfl
@[simp] theorem Tower.presetKey_trim (tw : Tower) (curves : Vector (List Point) 16) (k : Nat) (key : KeyRec) :
    (tw.presetKey curves k key).trim = key.trim := by
  unfold Tower.presetKey; split <;> rfl
@[simp] theorem Tower.presetKey_acc (tw : Tower) (curves : Vector (List Point) 16) (k : Nat) (key : KeyRec) :
    (tw.presetKey curves k key).acc = key.acc := by
  unfold Tower.presetKey; split <;> rfl
@[simp] theorem Tower.presetKey_settleUntil (tw : Tower) (curves : Vector (List Point) 16) (k : Nat) (key : KeyRec) :
    (tw.presetKey curves k key).settleUntil = key.settleUntil := by
  unfold Tower.presetKey; split <;> rfl

/-! ### One key -/

/-- A refresh of one key writes its record and then changes nothing but what the Key Drive Unit does with the target change
(R57). -/
theorem Tower.driveOnly_refreshKey (curves : Vector (List Point) 16) (tw : Tower) (k : Nat) :
    (tw.updateKey k (tw.presetKey curves k)).DriveOnly (tw.refreshKey curves k) := by
  unfold Tower.refreshKey
  cases hk : tw.keys[k]? with
  | none =>
    have : tw.updateKey k (tw.presetKey curves k) = tw := by
      simp only [Tower.updateKey]
      rw [modify_eq_self fun a ha => by rw [hk] at ha; cases ha]
    rw [this]; exact .refl _
  | some key =>
    have : tw.updateKey k (tw.presetKey curves k) = tw.updateKey k fun _ => tw.presetKey curves k key := by
      simp only [Tower.updateKey]
      congr 1
      apply List.ext_getElem?
      intro j
      simp only [List.getElem?_modify]
      by_cases hj : k = j
      · subst hj; simp [hk]
      · simp [hj]
    rw [this]
    simp only
    split
    · exact .refl _
    · exact Tower.driveOnly_targetChange _ _

/-- The states a refresh of one key can leave: the tower's own, or PRINTING when a PRESETTING tower drains (R118). -/
theorem Tower.refreshKey_state (curves : Vector (List Point) 16) (tw : Tower) (k : Nat) :
    (tw.refreshKey curves k).state = tw.state ∨ (tw.state = .presetting ∧ (tw.refreshKey curves k).state = .printing) := by
  have htc : ∀ u : Tower, (u.targetChange k).state = u.state ∨
      (u.state = .presetting ∧ (u.targetChange k).state = .printing) := by
    intro u
    rcases u.targetChange_cases k with ⟨-, h⟩ | ⟨_, _, -, -, -, h⟩ | ⟨_, _, _, -, -, -, -, h⟩ | ⟨-, -, h⟩ <;> rw [h]
    · exact .inl (by simp)
    · simpa using Tower.drainCheck_state (u.dequeue k)
    · exact .inl rfl
    · exact .inl rfl
  unfold Tower.refreshKey
  split
  · simp only
    split
    · exact .inl rfl
    · exact htc _
  · exact .inl rfl

/-- A refresh of one key keeps the laws of the queue and of the moving count (R124 to R127). -/
theorem Tower.driveSound_refreshKey (curves : Vector (List Point) 16) {tw : Tower} (h : tw.CoreSound) (ha : tw.Away)
    (k : Nat) : (tw.refreshKey curves k).CoreSound ∧ (tw.refreshKey curves k).Away := by
  unfold Tower.refreshKey
  cases hk : tw.keys[k]? with
  | none => exact ⟨h, ha⟩
  | some key =>
    simp only
    set key' := tw.presetKey curves k key with hkey'
    have hst : (tw.updateKey k fun _ => key').states = tw.states := by
      apply List.ext_getElem?
      intro j
      simp only [Tower.updateKey_keys, Tower.states, List.getElem?_map, List.getElem?_modify]
      by_cases hj : k = j
      · subst hj; simp [hk, hkey']
      · simp [hj]
    have hcore : (tw.updateKey k fun _ => key').CoreSound := h.congr rfl rfl rfl hst id
    have hexc : (tw.updateKey k fun _ => key').AwayExcept k := (ha.except k).updateKey _
    split
    · next hsteps =>
      refine ⟨hcore, Tower.away_of_except hexc fun b hb => ?_⟩
      rw [Tower.updateKey_keys, getElem?_modify_self, hk] at hb
      obtain rfl : key' = b := Option.some.inj hb
      have := ha key (List.mem_of_getElem? hk)
      unfold KeyRec.QueuedSound at this ⊢
      rw [hsteps, hkey', Tower.presetKey_drive]
      exact this
    · exact Tower.driveSound_targetChange hcore hexc

theorem Tower.PresettingSound.refreshKey (curves : Vector (List Point) 16) {tw : Tower} (h : tw.PresettingSound) (k : Nat) :
    (tw.refreshKey curves k).PresettingSound := by
  unfold Tower.refreshKey
  split
  · next key _ =>
    have hu : (tw.updateKey k fun _ => tw.presetKey curves k key).PresettingSound := h.congr rfl rfl rfl
    simp only
    split
    · exact hu
    · exact hu.targetChange k
  · exact h

/-! ### Several keys and the sweep -/

/-- What a refresh of keys makes of every key record, but for its drive part, and that it leaves plates and record (R57). -/
theorem Tower.refreshKeys_spec (curves : Vector (List Point) 16) {ks : List Nat} (hnd : ks.Nodup) (tw : Tower) :
    tw.SamePlates (ks.foldl (Tower.refreshKey curves) tw) ∧
    ∀ k, (ks.foldl (Tower.refreshKey curves) tw).keys[k]?.map KeyRec.undriven =
      tw.keys[k]?.map fun key => (if k ∈ ks then tw.presetKey curves k key else key).undriven := by
  induction ks generalizing tw with
  | nil => exact ⟨⟨rfl, rfl, rfl, rfl, rfl, rfl⟩, fun k => by simp⟩
  | cons j ks ih =>
    rw [List.nodup_cons] at hnd
    have hone := Tower.driveOnly_refreshKey curves tw j
    have hsame : tw.SamePlates (tw.refreshKey curves j) := hone.1
    obtain ⟨hs, hk⟩ := ih hnd.2 (tw.refreshKey curves j)
    refine ⟨?_, fun k => ?_⟩
    · obtain ⟨h1, h2, h3, h4, h5, h6⟩ := hsame
      obtain ⟨g1, g2, g3, g4, g5, g6⟩ := hs
      exact ⟨g1.trans h1, g2.trans h2, g3.trans h3, g4.trans h4, g5.trans h5, g6.trans h6⟩
    · rw [List.foldl_cons, hk k]
      have hkey := hone.key k
      rw [Tower.updateKey_keys, List.getElem?_modify] at hkey
      simp only [hsame.presetKey]
      by_cases hkj : j = k
      · subst hkj
        simp only [hnd.1, if_false, List.mem_cons, true_or, if_true]
        cases hj : tw.keys[j]? with
        | none => simpa [hj] using hkey
        | some a => simpa [hj] using hkey
      · cases hj : tw.keys[k]? with
        | none =>
          rw [hj] at hkey
          have : (tw.refreshKey curves j).keys[k]? = none := by simpa using hkey
          simp [this]
        | some a =>
          rw [hj] at hkey
          simp only [hkj, if_false] at hkey
          obtain ⟨b, hb, hab⟩ : ∃ b, (tw.refreshKey curves j).keys[k]? = some b ∧ b.undriven = a.undriven := by
            simpa using hkey
          rw [hb]
          simp only [Option.map_some, List.mem_cons, Ne.symm hkj, false_or]
          split
          · rw [← Tower.presetKey_undriven, hab, Tower.presetKey_undriven]
          · rw [hab]

/-- A refresh of the sweep leaves the tower where the sweep is as it was, and hands a change on (R57). -/
theorem Tower.refreshSweep_cases (tw : Tower) :
    ((if tw.run.complete then some tw.presetSweep else none) = tw.sweep ∧ tw.refreshSweep = tw) ∨
    ((if tw.run.complete then some tw.presetSweep else none) ≠ tw.sweep ∧
      tw.refreshSweep = { tw with sweep := if tw.run.complete then some tw.presetSweep else none }.sweepChange) := by
  by_cases h : (if tw.run.complete then some tw.presetSweep else none) = tw.sweep
  · exact .inl ⟨h, if_pos h⟩
  · exact .inr ⟨h, if_neg h⟩

/-- The sweep a refresh of the sweep leaves (R56, R68). -/
theorem Tower.refreshSweep_sweep (tw : Tower) :
    tw.refreshSweep.sweep = if tw.run.complete then some tw.presetSweep else none := by
  rcases tw.refreshSweep_cases with ⟨h, e⟩ | ⟨-, e⟩ <;> rw [e]
  · exact h.symm
  · exact (Tower.driveOnly_sweepChange _).1.2.2.2.1

theorem Tower.refreshSweep_driveOnly (tw : Tower) : ({ tw with sweep := tw.refreshSweep.sweep }).DriveOnly tw.refreshSweep := by
  rw [Tower.refreshSweep_sweep]
  rcases tw.refreshSweep_cases with ⟨h, e⟩ | ⟨-, e⟩ <;> rw [e]
  · rw [h]; exact .refl _
  · exact Tower.driveOnly_sweepChange _

@[simp] theorem Tower.sweepChange_state (tw : Tower) : tw.sweepChange.state = tw.state := by
  unfold Tower.sweepChange; split <;> simp
@[simp] theorem Tower.sweepChange_keys (tw : Tower) : tw.sweepChange.keys = tw.keys := by
  unfold Tower.sweepChange; split <;> simp
@[simp] theorem Tower.sweepChange_queue (tw : Tower) : tw.sweepChange.queue = tw.queue := by
  unfold Tower.sweepChange; split <;> simp
@[simp] theorem Tower.sweepChange_moving (tw : Tower) : tw.sweepChange.moving = tw.moving := by
  unfold Tower.sweepChange; split <;> simp
@[simp] theorem Tower.refreshSweep_state (tw : Tower) : tw.refreshSweep.state = tw.state := by
  rcases tw.refreshSweep_cases with ⟨-, e⟩ | ⟨-, e⟩ <;> simp [e]
@[simp] theorem Tower.refreshSweep_keys (tw : Tower) : tw.refreshSweep.keys = tw.keys := by
  rcases tw.refreshSweep_cases with ⟨-, e⟩ | ⟨-, e⟩ <;> simp [e]
@[simp] theorem Tower.refreshSweep_queue (tw : Tower) : tw.refreshSweep.queue = tw.queue := by
  rcases tw.refreshSweep_cases with ⟨-, e⟩ | ⟨-, e⟩ <;> simp [e]
@[simp] theorem Tower.refreshSweep_moving (tw : Tower) : tw.refreshSweep.moving = tw.moving := by
  rcases tw.refreshSweep_cases with ⟨-, e⟩ | ⟨-, e⟩ <;> simp [e]

/-- What a refresh leaves of a tower: plates, record, counters and receive framer (R55). -/
theorem Tower.refresh_leaves (curves : Vector (List Point) 16) {ks : List Nat} (hnd : ks.Nodup) (sweepToo : Bool)
    (tw : Tower) :
    (tw.refresh curves ks sweepToo).config = tw.config ∧ (tw.refresh curves ks sweepToo).run = tw.run ∧
    (tw.refresh curves ks sweepToo).next = tw.next ∧ (tw.refresh curves ks sweepToo).counters = tw.counters ∧
    (tw.refresh curves ks sweepToo).port.framer = tw.port.framer := by
  obtain ⟨⟨h1, h2, h3, -, h5, h6⟩, -⟩ := Tower.refreshKeys_spec curves hnd tw
  unfold Tower.refresh
  cases sweepToo with
  | false => exact ⟨h1, h2, h3, h5, h6⟩
  | true =>
    obtain ⟨⟨g1, g2, g3, -, g5, g6⟩, -⟩ := Tower.refreshSweep_driveOnly (ks.foldl (Tower.refreshKey curves) tw)
    exact ⟨g1.trans h1, g2.trans h2, g3.trans h3, g5.trans h5, g6.trans h6⟩

/-- Every key record after a refresh, but for its drive part (R55 to R67). -/
theorem Tower.refresh_key (curves : Vector (List Point) 16) {ks : List Nat} (hnd : ks.Nodup) (sweepToo : Bool) (tw : Tower)
    (k : Nat) : (tw.refresh curves ks sweepToo).keys[k]?.map KeyRec.undriven =
      tw.keys[k]?.map fun key => (if k ∈ ks then tw.presetKey curves k key else key).undriven := by
  rw [← (Tower.refreshKeys_spec curves hnd tw).2 k]
  unfold Tower.refresh
  cases sweepToo <;> simp

theorem Tower.refresh_state (curves : Vector (List Point) 16) (ks : List Nat) (sweepToo : Bool) (tw : Tower) :
    (tw.refresh curves ks sweepToo).state = tw.state ∨
      (tw.state = .presetting ∧ (tw.refresh curves ks sweepToo).state = .printing) := by
  have hfold : (ks.foldl (Tower.refreshKey curves) tw).state = tw.state ∨
      (tw.state = .presetting ∧ (ks.foldl (Tower.refreshKey curves) tw).state = .printing) := by
    induction ks generalizing tw with
    | nil => exact .inl rfl
    | cons k ks ih =>
      rw [List.foldl_cons]
      rcases ih (tw.refreshKey curves k) with e | ⟨e1, e2⟩ <;> rcases tw.refreshKey_state curves k with g | ⟨g1, g2⟩
      · exact .inl (e.trans g)
      · exact .inr ⟨g1, e.trans g2⟩
      · exact .inr ⟨g ▸ e1, e2⟩
      · rw [g2] at e1; cases e1
  unfold Tower.refresh
  cases sweepToo <;> simpa using hfold

/-- A refresh keeps the laws of the queue and of the moving count. -/
theorem Tower.driveSound_refresh (curves : Vector (List Point) 16) (ks : List Nat) (sweepToo : Bool) {tw : Tower}
    (h : tw.CoreSound) (ha : tw.Away) :
    (tw.refresh curves ks sweepToo).CoreSound ∧ (tw.refresh curves ks sweepToo).Away := by
  have hfold : (ks.foldl (Tower.refreshKey curves) tw).CoreSound ∧ (ks.foldl (Tower.refreshKey curves) tw).Away := by
    induction ks generalizing tw with
    | nil => exact ⟨h, ha⟩
    | cons k ks ih =>
      obtain ⟨h', ha'⟩ := Tower.driveSound_refreshKey curves h ha k
      exact ih h' ha'
  unfold Tower.refresh
  cases sweepToo with
  | false => exact hfold
  | true =>
    refine ⟨hfold.1.congr (by simp) (by simp) ?_ (by simp [Tower.states]) (by simp), by simpa [Tower.Away] using hfold.2⟩
    exact (Tower.refreshSweep_driveOnly _).1.1

/-- A refreshed key's target fits the record whenever it did before (R55): a computed target always does, a held one is
clamped. -/
theorem Tower.presetKey_fits (curves : Vector (List Point) 16) {tw : Tower} (hc : tw.config.Sound) (k : Nat) {key : KeyRec} :
    ∀ g ∈ (tw.presetKey curves k key).target, g.FitsConfig tw.config := by
  intro g hg
  unfold Tower.presetKey at hg
  split at hg
  · simp only [Tower.presetTarget] at hg
    split at hg
    · obtain rfl : _ = g := Option.some.inj hg
      exact limitedTarget_fits hc _
    · obtain ⟨a, -, rfl⟩ := Option.map_eq_some_iff.mp hg
      exact heldTarget_fits hc a
  · cases hg

/-! ### The state: one tower and the Fault List alone -/

@[simp] theorem State.refresh_pending (s : State) (t : TowerIx) (ks : List Nat) (b : Bool) :
    (s.refresh t ks b).pending = s.pending := by unfold State.refresh; simp only; split <;> simp
@[simp] theorem State.refresh_sheets (s : State) (t : TowerIx) (ks : List Nat) (b : Bool) :
    (s.refresh t ks b).sheets = s.sheets := by unfold State.refresh; simp only; split <;> simp
@[simp] theorem State.refresh_curves (s : State) (t : TowerIx) (ks : List Nat) (b : Bool) :
    (s.refresh t ks b).curves = s.curves := by unfold State.refresh; simp only; split <;> simp
@[simp] theorem State.refresh_masters (s : State) (t : TowerIx) (ks : List Nat) (b : Bool) :
    (s.refresh t ks b).masters = s.masters := by unfold State.refresh; simp only; split <;> simp
@[simp] theorem State.refresh_access (s : State) (t : TowerIx) (ks : List Nat) (b : Bool) :
    (s.refresh t ks b).access = s.access := by unfold State.refresh; simp only; split <;> simp
@[simp] theorem State.refresh_restartPending (s : State) (t : TowerIx) (ks : List Nat) (b : Bool) :
    (s.refresh t ks b).restartPending = s.restartPending := by unfold State.refresh; simp only; split <;> simp
@[simp] theorem State.refresh_port (s : State) (t : TowerIx) (ks : List Nat) (b : Bool) (p : MasterPort) :
    (s.refresh t ks b).port p = s.port p := by unfold State.refresh; simp only; split <;> simp
@[simp] theorem State.refresh_busy (s : State) (t : TowerIx) (ks : List Nat) (b : Bool) (p : MasterPort) :
    (s.refresh t ks b).busy p = s.busy p := by simp [State.busy]
@[simp] theorem State.refresh_curve (s : State) (t : TowerIx) (ks : List Nat) (b : Bool) (c : CurveIx) :
    (s.refresh t ks b).curve c = s.curve c := by unfold State.refresh; simp only; split <;> simp

@[simp] theorem State.refresh_tower_same (s : State) (t : TowerIx) (ks : List Nat) (b : Bool) :
    (s.refresh t ks b).tower t = (s.tower t).refresh s.curves ks b := by unfold State.refresh; simp only; split <;> simp

theorem State.refresh_tower_of_ne (s : State) {t u : TowerIx} (ks : List Nat) (b : Bool) (h : u ≠ t) :
    (s.refresh t ks b).tower u = s.tower u := by
  unfold State.refresh; simp only; split <;> simp [State.tower_setTower_of_ne _ _ h]

/-- The one fault a refresh may log (R62). -/
theorem State.refresh_faults (s : State) (t : TowerIx) (ks : List Nat) (b : Bool) :
    (s.refresh t ks b).faults =
      if (s.tower t).holdsAny s.curves ks then s.faults.log .curveIncomplete (.tower t) s.sheets else s.faults := by
  unfold State.refresh; simp only; split <;> simp

/-- A change of a curve leaves everything but the towers and the Fault List, and each tower is refreshed on its own (R72, R76). -/
theorem State.refreshCurve_fold (c : CurveIx) (ts : List TowerIx) (hnd : ts.Nodup) (s : State) :
    let u := ts.foldl (fun s t => s.refresh t ((s.tower t).keysOn c) false) s
    u.pending = s.pending ∧ u.sheets = s.sheets ∧ u.curves = s.curves ∧ u.masters = s.masters ∧ u.access = s.access ∧
      u.restartPending = s.restartPending ∧
      ∀ t, u.tower t = if t ∈ ts then (s.tower t).refresh s.curves ((s.tower t).keysOn c) false else s.tower t := by
  induction ts generalizing s with
  | nil => simp
  | cons a ts ih =>
    rw [List.nodup_cons] at hnd
    obtain ⟨h1, h2, h3, h4, h5, h6, h7⟩ := ih hnd.2 (s.refresh a ((s.tower a).keysOn c) false)
    refine ⟨by simpa using h1, by simpa using h2, by simpa using h3, by simpa using h4, by simpa using h5,
      by simpa using h6, fun t => ?_⟩
    rw [List.foldl_cons, h7 t]
    by_cases hta : t = a
    · subst hta; simp [hnd.1]
    · simp [State.refresh_tower_of_ne _ _ _ hta, hta]

theorem State.refreshCurve_spec (s : State) (c : CurveIx) :
    (s.refreshCurve c).pending = s.pending ∧ (s.refreshCurve c).sheets = s.sheets ∧ (s.refreshCurve c).curves = s.curves ∧
      (s.refreshCurve c).masters = s.masters ∧ (s.refreshCurve c).access = s.access ∧
      (s.refreshCurve c).restartPending = s.restartPending ∧
      ∀ t, (s.refreshCurve c).tower t = (s.tower t).refresh s.curves ((s.tower t).keysOn c) false := by
  have := State.refreshCurve_fold c (List.finRange 12) (List.nodup_finRange 12) s
  simpa [State.refreshCurve, List.mem_finRange] using this

/-- A refresh keeps a key waiting or moving in a tower it leaves PRESETTING (R118). -/
theorem Tower.PresettingSound.refresh (curves : Vector (List Point) 16) (ks : List Nat) (sweepToo : Bool) {tw : Tower}
    (h : tw.PresettingSound) : (tw.refresh curves ks sweepToo).PresettingSound := by
  have hks : (ks.foldl (Tower.refreshKey curves) tw).PresettingSound := by
    induction ks generalizing tw with
    | nil => exact h
    | cons k ks ih => exact ih (h.refreshKey curves k)
  unfold Tower.refresh
  split
  · exact hks.congr (by simp) (by simp) (by simp)
  · exact hks

/-- What a curve's change makes of the Fault List: one CURVE_INCOMPLETE fault a tower that holds a key, in ascending order (R62,
R72). -/
theorem State.refreshCurve_faults (s : State) (c : CurveIx) :
    (s.refreshCurve c).faults = ((List.finRange 12).filter fun t => (s.tower t).holdsAny s.curves ((s.tower t).keysOn c)).foldl
      (fun l t => l.log .curveIncomplete (.tower t) s.sheets) s.faults := by
  have : ∀ (ts : List TowerIx) (s : State), ts.Nodup →
      (ts.foldl (fun s t => s.refresh t ((s.tower t).keysOn c) false) s).faults =
        (ts.filter fun t => (s.tower t).holdsAny s.curves ((s.tower t).keysOn c)).foldl
          (fun l t => l.log .curveIncomplete (.tower t) s.sheets) s.faults := by
    intro ts
    induction ts with
    | nil => intro s _; rfl
    | cons a ts ih =>
      intro s hnd
      rw [List.nodup_cons] at hnd
      have hrest : (ts.filter fun t => ((s.refresh a ((s.tower a).keysOn c) false).tower t).holdsAny s.curves
            (((s.refresh a ((s.tower a).keysOn c) false).tower t).keysOn c)) =
          ts.filter fun t => (s.tower t).holdsAny s.curves ((s.tower t).keysOn c) :=
        List.filter_congr fun t ht => by
          rw [State.refresh_tower_of_ne _ _ _ (show t ≠ a from fun e => hnd.1 (e ▸ ht))]
      rw [List.foldl_cons, ih _ hnd.2]
      simp only [State.refresh_curves, State.refresh_sheets, hrest, List.filter_cons]
      unfold State.refresh
      split <;> simp [State.logFault, *]
  exact this _ s (List.nodup_finRange 12)

/-- The keys a refresh names are named once each. -/
theorem Tower.allKeys_nodup (tw : Tower) : tw.allKeys.Nodup := List.nodup_range
theorem Tower.keysOn_nodup (tw : Tower) (c : CurveIx) : (tw.keysOn c).Nodup := tw.allKeys_nodup.filter _
theorem Tower.keysNear_nodup (tw : Tower) (zones : List Nat) : (tw.keysNear zones).Nodup := tw.allKeys_nodup.filter _

end Sys2Proof.Machine
end

