-- ==== Sys2Proof/Laws/Checks.lean ====
section
/-! SUPPORT. The invariants that range over every key number or every curve, decided on a concrete tower: what a computation
finds true, the invariant says. The tests use them to show that the premises of the statements are met. -/

namespace Sys2Proof.Machine

/-- `KeyRec.QueuedSound`, computed. -/
def KeyRec.queuedCheck (key : KeyRec) : Bool :=
  match key.drive with
  | .queued position => key.steps.isSome && key.steps != some position
  | _ => true

/-- `Tower.QueueSound`, computed. -/
def Tower.queueCheck (tw : Tower) : Bool :=
  decide tw.queue.Nodup && tw.queue.all tw.isQueued &&
    ((List.range tw.keys.length).all fun k => !tw.isQueued k || tw.queue.contains k) &&
    (tw.state != .dark || tw.queue.isEmpty) && tw.keys.all KeyRec.queuedCheck

theorem KeyRec.queuedSound_of_check {key : KeyRec} (h : key.queuedCheck = true) : key.QueuedSound := by
  unfold KeyRec.queuedCheck at h
  unfold KeyRec.QueuedSound
  cases hd : key.drive <;> simp only [hd] at h ⊢
  cases hs : key.steps <;> simp_all

theorem Tower.lt_length_of_isQueued {tw : Tower} {k : Nat} (h : tw.isQueued k = true) : k < tw.keys.length := by
  unfold Tower.isQueued at h
  cases hk : tw.keys[k]? with
  | none => simp [hk] at h
  | some key => exact (List.getElem?_eq_some_iff.mp hk).1

theorem Tower.queueSound_of_check {tw : Tower} (h : tw.queueCheck = true) : tw.QueueSound := by
  simp only [Tower.queueCheck, Bool.and_eq_true, decide_eq_true_eq, List.all_eq_true, Bool.or_eq_true, Bool.not_eq_true',
    List.mem_range, List.contains_eq_mem, bne_iff_ne, List.isEmpty_iff] at h
  obtain ⟨⟨⟨⟨hn, hq⟩, hk⟩, hd⟩, hs⟩ := h
  refine ⟨hn, fun k => ⟨hq k, fun hk' => ?_⟩, fun h => hd.resolve_left (· h), fun key hm =>
    KeyRec.queuedSound_of_check (hs key hm)⟩
  exact (hk k (Tower.lt_length_of_isQueued hk')).resolve_left (by simp [hk'])

/-- `Tower.PresetsCurrent` of key k, computed. -/
def Tower.presetCheck (curves : Vector (List Point) 16) (tw : Tower) (k : Nat) : Bool :=
  match tw.keys[k]? with
  | some key =>
    let e := tw.effectiveCoverage k
    let points := curves.get (tw.curveOf k)
    key.effective == some e &&
      (decide (points.length < 2) || key.target ==
        some (targetOf tw.config (openingFor tw.config.metering e (openingAt points e) key.trim key.acc)))
  | none => true

/-- `Tower.PresetsCurrent`, computed. -/
def Tower.presetsCheck (curves : Vector (List Point) 16) (tw : Tower) : Bool :=
  if tw.run.complete then
    (List.range tw.keys.length).all (tw.presetCheck curves) && tw.sweep == some tw.presetSweep
  else (tw.keys.all fun key => key.target.isNone && key.effective.isNone) && tw.sweep.isNone

theorem Tower.presetsCurrent_of_check {curves : Vector (List Point) 16} {tw : Tower} (h : tw.presetsCheck curves = true) :
    tw.PresetsCurrent curves := by
  unfold Tower.presetsCheck at h
  refine ⟨fun hc => ?_, fun hc => ?_⟩ <;> simp only [hc, if_true, Bool.false_eq_true, if_false, Bool.and_eq_true, beq_iff_eq,
    List.all_eq_true, List.mem_range, Option.isNone_iff_eq_none] at h
  · refine ⟨fun k key hk => ?_, h.2⟩
    have := h.1 k (List.getElem?_eq_some_iff.mp hk).1
    simp only [Tower.presetCheck, hk, Bool.and_eq_true, beq_iff_eq, Bool.or_eq_true, decide_eq_true_eq] at this
    exact ⟨this.1, fun h2 => this.2.resolve_left (by omega)⟩
  · exact h

/-! ### Fields of a body -/

theorem field8_iff (body : List Byte) (i n : Nat) : Field8 body i n ↔ body[i]?.map BitVec.toNat = some n := by
  simp [Field8, Option.map_eq_some_iff]

theorem field16_iff (body : List Byte) (i n : Nat) :
    Field16 body i n ↔
      (body[i]?.bind fun b1 => body[i + 1]?.map fun b0 => b1.toNat * 256 + b0.toNat) = some n := by
  simp only [Field16, Option.bind_eq_some_iff, Option.map_eq_some_iff]
  constructor
  · rintro ⟨b1, b0, h1, h0, h⟩
    exact ⟨b1, h1, b0, h0, h⟩
  · rintro ⟨b1, h1, b0, h0, h⟩
    exact ⟨b1, b0, h1, h0, h⟩

end Sys2Proof.Machine
end

