-- ==== Sys2Proof/Laws/Coverage.lean ====
section
/-! SUPPORT. What storing coverage can do: slots keep their zone count and range (R18, R28), the pointer stays inside the window
(R23, R30), and a stored slot reaches its tower with a RUN change handed on (R22). -/

namespace Sys2Proof.Machine

@[simp] theorem Slot.store_length (sl : Slot) (mode : Mode) (z v : Nat) :
    (sl.store mode z v).coverage.length = sl.coverage.length := by simp [Slot.store]
@[simp] theorem Slot.store_tag (sl : Slot) (mode : Mode) (z v : Nat) : (sl.store mode z v).tag = sl.tag := rfl
@[simp] theorem Slot.store_mirrored (sl : Slot) (mode : Mode) (z v : Nat) : (sl.store mode z v).mirrored = sl.mirrored := rfl

/-- The zone stored into holds the combined value, and is written (R28). -/
theorem Slot.zone_store_same (sl : Slot) (mode : Mode) {z : Nat} (v : Nat) (h : z < sl.coverage.length) :
    (sl.store mode z v).zone z = some (combine mode (sl.zone z) v) := by
  simp [Slot.store, Slot.zone, h]

/-- Every other zone is as it was. -/
theorem Slot.zone_store_of_ne (sl : Slot) (mode : Mode) {z y : Nat} (v : Nat) (h : y ≠ z) :
    (sl.store mode z v).zone y = sl.zone y := by
  simp [Slot.store, Slot.zone, List.getElem?_set_ne (Ne.symm h)]

theorem Slot.zone_le {sl : Slot} {n : Nat} (h : sl.Sound n) (z : Nat) : ∀ c ∈ sl.zone z, c ≤ 1000 := by
  intro c hc
  have : sl.coverage[z]? = some (some c) := by
    unfold Slot.zone at hc
    exact Option.join_eq_some_iff.mp hc
  exact h.2 _ (List.mem_of_getElem? this) c rfl

/-- A store keeps a slot sound (R18, R28). -/
theorem Slot.Sound.store {sl : Slot} {n : Nat} (h : sl.Sound n) (mode : Mode) (z : Nat) {v : Nat} (hv : v ≤ 1000) :
    (sl.store mode z v).Sound n := by
  refine ⟨by simpa using h.1, fun c hc w hw => ?_⟩
  rcases List.mem_or_eq_of_mem_set hc with hc | rfl
  · exact h.2 c hc w hw
  · obtain rfl : _ = w := Option.some.inj hw
    exact combine_le mode (Slot.zone_le h z) hv

theorem Slot.emptied_sound (n : Nat) : (Slot.emptied n).Sound n := by
  refine ⟨by simp [Slot.emptied], fun c hc v hv => ?_⟩
  rw [(List.mem_replicate.mp hc).2] at hv
  cases hv

/-- A fill keeps a slot sound (R33). -/
theorem Slot.Sound.fill {sl : Slot} {n : Nat} (h : sl.Sound n) (c : WriteContext) (v : Nat) : (c.fill v sl).Sound n := by
  unfold WriteContext.fill
  generalize c.window.filter c.masksIn = zs
  induction zs generalizing sl with
  | nil => exact h
  | cons z zs ih => exact ih (h.store c.mode z (clampCoverage_le v))

/-- The pointer stays inside the window, or is EXHAUSTED (R30 step 4). -/
theorem WriteContext.advance_mem {c : WriteContext} {z q : Nat} (hz : c.first ≤ z ∧ z ≤ c.last) (h : c.advance z = some q) :
    c.first ≤ q ∧ q ≤ c.last := by
  unfold WriteContext.advance at h
  split at h <;> split at h
  · cases h
  · obtain rfl := Option.some.inj h; omega
  · cases h
  · obtain rfl := Option.some.inj h; omega

/-- A placed pointer lies inside the window (R24). -/
theorem WriteContext.placed_sound {c : WriteContext} {z : Nat} (h1 : c.first ≤ c.last) (h2 : c.last < z) :
    c.placed.Sound z := by
  refine ⟨h1, h2, fun q hq => ?_⟩
  unfold WriteContext.placed at hq ⊢
  obtain rfl := Option.some.inj hq
  cases c.direction <;> simp only <;> omega

/-- What the values of a ZONES WRITE leave of the context and the slot (R30). -/
theorem Stream.fold_sound {n z : Nat} (values : List Nat) (st : Stream) (hs : st.slot.Sound n) (hc : st.ctx.Sound z) :
    (values.foldl Stream.value st).slot.Sound n ∧ (values.foldl Stream.value st).ctx.Sound z ∧
      (values.foldl Stream.value st).ctx.tower = st.ctx.tower ∧ (values.foldl Stream.value st).ctx.slot = st.ctx.slot := by
  induction values generalizing st with
  | nil => exact ⟨hs, hc, rfl, rfl⟩
  | cons v values ih =>
    rw [List.foldl_cons]
    have hone : (st.value v).slot.Sound n ∧ (st.value v).ctx.Sound z ∧ (st.value v).ctx.tower = st.ctx.tower ∧
        (st.value v).ctx.slot = st.ctx.slot := by
      unfold Stream.value
      cases hp : st.ctx.pointer with
      | none => exact ⟨hs, hc, rfl, rfl⟩
      | some q =>
        refine ⟨?_, ⟨hc.1, hc.2.1, fun r hr => ?_⟩, rfl, rfl⟩
        · simp only
          split
          · exact hs.store _ _ (clampCoverage_le v)
          · exact hs
        · exact WriteContext.advance_mem (hc.2.2 q hp) hr
    obtain ⟨h1, h2, h3, h4⟩ := hone
    obtain ⟨g1, g2, g3, g4⟩ := ih _ h1 h2
    exact ⟨g1, g2, g3.trans h3, g4.trans h4⟩

@[simp] theorem Tower.setSlot_config (tw : Tower) (n : SlotName) (sl : Slot) : (tw.setSlot n sl).config = tw.config := by
  cases n <;> rfl
@[simp] theorem Tower.setSlot_keys (tw : Tower) (n : SlotName) (sl : Slot) : (tw.setSlot n sl).keys = tw.keys := by
  cases n <;> rfl
@[simp] theorem Tower.setSlot_state (tw : Tower) (n : SlotName) (sl : Slot) : (tw.setSlot n sl).state = tw.state := by
  cases n <;> rfl
@[simp] theorem Tower.setSlot_queue (tw : Tower) (n : SlotName) (sl : Slot) : (tw.setSlot n sl).queue = tw.queue := by
  cases n <;> rfl
@[simp] theorem Tower.setSlot_moving (tw : Tower) (n : SlotName) (sl : Slot) : (tw.setSlot n sl).moving = tw.moving := by
  cases n <;> rfl
@[simp] theorem Tower.slot_setSlot_same (tw : Tower) (n : SlotName) (sl : Slot) : (tw.setSlot n sl).slot n = sl := by
  cases n <;> rfl

/-- A change of RUN is handed on by a refresh of its tower, or nothing is done (R22). -/
theorem State.handOnCoverage_cases (s : State) (t : TowerIx) (old : Slot) :
    s.handOnCoverage t old = s ∨ ∃ ks, ks.Nodup ∧ s.handOnCoverage t old = s.refresh t ks true := by
  unfold State.handOnCoverage
  simp only
  split
  · exact .inr ⟨_, Tower.allKeys_nodup _, rfl⟩
  · split
    · exact .inr ⟨_, Tower.keysNear_nodup _ _, rfl⟩
    · exact .inl rfl

/-- A stored slot replaces the tower's, and a RUN slot's tower may be refreshed afterwards (R22). -/
theorem State.storeSlot_cases (s : State) (t : TowerIx) (n : SlotName) (sl : Slot) :
    s.storeSlot t n sl = s.setTower t ((s.tower t).setSlot n sl) ∨
    (n = .run ∧ ∃ ks, ks.Nodup ∧ s.storeSlot t n sl = (s.setTower t ((s.tower t).setSlot n sl)).refresh t ks true) := by
  cases n with
  | next => exact .inl rfl
  | run =>
    rcases State.handOnCoverage_cases (s.setTower t ((s.tower t).setSlot .run sl)) t (s.tower t).run with h | ⟨ks, hks, h⟩
    · exact .inl h
    · exact .inr ⟨rfl, ks, hks, h⟩

end Sys2Proof.Machine
end

