-- ==== Sys2Proof/Laws/Curves.lean ====
section
/-! SUPPORT. What a commit of a point can do to a curve (R49), and what taking one word of a CURVE PUT can do (R48, R50). -/

namespace Sys2Proof.Machine

/-- The four conditions under which a commit succeeds (R49). -/
def Committable (points : List Point) (i coverage : Nat) : Prop :=
  i ≤ points.length ∧ i ≠ 12 ∧ (∀ j q, i = j + 1 → points[j]? = some q → q.coverage < coverage) ∧
    ∀ q, points[i + 1]? = some q → coverage < q.coverage

/-- A commit fails, appends or replaces (R49). -/
theorem commitPoint_cases (points : List Point) (i coverage opening : Nat) :
    (¬Committable points i coverage ∧ commitPoint points i coverage opening = none) ∨
    (Committable points i coverage ∧ i = points.length ∧
      commitPoint points i coverage opening = some (points ++ [{ coverage := coverage, opening := opening }])) ∨
    (Committable points i coverage ∧ i < points.length ∧
      commitPoint points i coverage opening = some (points.set i { coverage := coverage, opening := opening })) := by
  unfold commitPoint Committable
  simp only [Config.maxPoints]
  by_cases h1 : points.length < i
  · exact .inl ⟨by omega, by simp [h1]⟩
  by_cases h2 : i = 12
  · exact .inl ⟨fun h => h.2.1 h2, by simp [h2]⟩
  by_cases hb : ∀ j q, i = j + 1 → points[j]? = some q → q.coverage < coverage
  · have hb' : i = 0 ∨ ∀ q, points[i - 1]? = some q → q.coverage < coverage := by
      cases i with
      | zero => exact .inl rfl
      | succ i => exact .inr fun q hq => hb i q rfl hq
    by_cases ha : ∀ q, points[i + 1]? = some q → coverage < q.coverage
    · right
      have e : (if i = points.length then some (points ++ [{ coverage := coverage, opening := opening }])
          else some (points.set i { coverage := coverage, opening := opening })) =
          commitPoint points i coverage opening := by
        refine (if_neg ?_).symm
        simp only [Config.maxPoints, h1, h2, false_or]
        rcases hb' with e0 | hb' <;> cases hB : points[i - 1]? <;> cases hA : points[i + 1]? <;>
          simp_all
      simp only [commitPoint, Config.maxPoints] at e
      rw [← e]
      by_cases h3 : i = points.length
      · exact .inl ⟨⟨by omega, h2, hb, ha⟩, h3, if_pos h3⟩
      · exact .inr ⟨⟨by omega, h2, hb, ha⟩, by omega, if_neg h3⟩
    · refine .inl ⟨fun h => ha h.2.2.2, if_pos (.inr (.inr (.inr ?_)))⟩
      obtain ⟨q, hq, hlt⟩ : ∃ q, points[i + 1]? = some q ∧ ¬coverage < q.coverage := by
        simpa using ha
      simp only [hq, hlt, decide_false, Bool.not_false]
  · refine .inl ⟨fun h => hb h.2.2.1, if_pos (.inr (.inr (.inl ?_)))⟩
    obtain ⟨j, q, hj, hq, hlt⟩ : ∃ j q, i = j + 1 ∧ points[j]? = some q ∧ ¬q.coverage < coverage := by
      simpa using hb
    subst hj
    simp only [Nat.add_sub_cancel, hq, hlt, decide_false, Bool.or_false, Bool.not_eq_true', decide_eq_false_iff_not]
    omega

/-- A successful commit keeps a curve in strictly ascending coverage with at most 12 points (R40). -/
theorem commitPoint_sound {points new : List Point} {i coverage opening : Nat} (h : CurveSound points)
    (hc : coverage ≤ 1000) (ho : opening ≤ 1000) (e : commitPoint points i coverage opening = some new) :
    CurveSound new := by
  obtain ⟨hlen, hpair, hmem⟩ := h
  rcases commitPoint_cases points i coverage opening with ⟨-, e'⟩ | ⟨⟨h1, h2, hbelow, -⟩, hi, e'⟩ |
      ⟨⟨h1, h2, hbelow, habove⟩, hi, e'⟩ <;> rw [e'] at e
  · cases e
  · obtain rfl := Option.some.inj e
    refine ⟨by simp; omega, ?_, ?_⟩
    · rw [List.pairwise_append]
      refine ⟨hpair, by simp, fun a ha b hb => ?_⟩
      obtain rfl : b = { coverage := coverage, opening := opening } := by simpa using hb
      obtain ⟨j, hj, rfl⟩ := List.getElem_of_mem ha
      have hlast : points.length - 1 < points.length := by omega
      have hl := hbelow (points.length - 1) points[points.length - 1] (by omega) (List.getElem?_eq_getElem hlast)
      rcases Nat.lt_or_ge j (points.length - 1) with hlt | hge
      · exact lt_trans (List.pairwise_iff_getElem.mp hpair j _ hj hlast hlt) hl
      · obtain rfl : j = points.length - 1 := by omega
        exact hl
    · intro q hq
      rcases List.mem_append.mp hq with hq | hq
      · exact hmem q hq
      · obtain rfl : q = { coverage := coverage, opening := opening } := by simpa using hq
        exact ⟨hc, ho⟩
  · obtain rfl := Option.some.inj e
    refine ⟨by simpa using hlen, ?_, ?_⟩
    · rw [List.pairwise_iff_getElem] at hpair ⊢
      intro a b ha hb hab
      simp only [List.length_set] at ha hb
      simp only [List.getElem_set]
      by_cases e1 : i = a
      · subst e1
        have hne : ¬i = b := by omega
        simp only [if_true, hne, if_false]
        have hs : i + 1 < points.length := by omega
        have hn := habove points[i + 1] (List.getElem?_eq_getElem hs)
        rcases Nat.lt_or_ge (i + 1) b with hlt | hge
        · exact lt_trans hn (hpair (i + 1) b hs hb hlt)
        · obtain rfl : b = i + 1 := by omega
          exact hn
      · by_cases e2 : i = b
        · subst e2
          simp only [e1, if_false, if_true]
          have hs : i - 1 < points.length := by omega
          have hp := hbelow (i - 1) points[i - 1] (by omega) (List.getElem?_eq_getElem hs)
          rcases Nat.lt_or_ge a (i - 1) with hlt | hge
          · exact lt_trans (hpair a (i - 1) ha hs hlt) hp
          · obtain rfl : a = i - 1 := by omega
            exact hp
        · simp only [e1, e2, if_false]
          exact hpair a b ha hb hab
    · intro q hq
      rcases List.mem_or_eq_of_mem_set hq with hq | rfl
      · exact hmem q hq
      · exact ⟨hc, ho⟩

/-- A commit succeeds at an index a curve has or is to have next, so the index after it lies within 0..12 (R42, R49). -/
theorem commitPoint_index {points new : List Point} {i coverage opening : Nat} (hlen : points.length ≤ 12)
    (e : commitPoint points i coverage opening = some new) : i + 1 ≤ 12 := by
  rcases commitPoint_cases points i coverage opening with ⟨-, e'⟩ | ⟨⟨h1, h2, -⟩, -, -⟩ | ⟨⟨h1, h2, -⟩, -, -⟩
  · rw [e'] at e; cases e
  · omega
  · omega

/-- A word of a CURVE PUT fails, is held, fails its commit, or commits a point and refreshes (R48, R49, R50, R51). -/
theorem State.putWords_cons (p : MasterPort) (w : Nat) (rest : List Nat) (n : Nat) (s : State) :
    (1000 < w ∧ State.putWords p (w :: rest) n s = (s.setCursor p { (s.port p).cursor with phase := .even }, .range, n)) ∨
    (w ≤ 1000 ∧ (s.port p).cursor.phase = .even ∧ State.putWords p (w :: rest) n s =
      State.putWords p rest n (s.setCursor p { (s.port p).cursor with phase := .half w })) ∨
    (∃ held, w ≤ 1000 ∧ (s.port p).cursor.phase = .half held ∧
      commitPoint (s.curve (s.port p).cursor.curve) (s.port p).cursor.index held w = none ∧
      State.putWords p (w :: rest) n s = (s.setCursor p { (s.port p).cursor with phase := .even }, .order, n)) ∨
    (∃ held points, w ≤ 1000 ∧ (s.port p).cursor.phase = .half held ∧
      commitPoint (s.curve (s.port p).cursor.curve) (s.port p).cursor.index held w = some points ∧
      State.putWords p (w :: rest) n s = State.putWords p rest (n + 1)
        (((s.setCurve (s.port p).cursor.curve points).setCursor p
          { (s.port p).cursor with index := (s.port p).cursor.index + 1, phase := .even, lastOp := .write }).refreshCurve
            (s.port p).cursor.curve)) := by
  by_cases hw : 1000 < w
  · exact .inl ⟨hw, by simp [State.putWords, hw]⟩
  · cases hp : (s.port p).cursor.phase with
    | even => exact .inr (.inl ⟨by omega, rfl, by simp [State.putWords, hw, hp]⟩)
    | half held =>
      cases hcp : commitPoint (s.curve (s.port p).cursor.curve) (s.port p).cursor.index held w with
      | none => exact .inr (.inr (.inl ⟨held, by omega, rfl, hcp, by simp [State.putWords, hw, hp, hcp]⟩))
      | some points =>
        exact .inr (.inr (.inr ⟨held, points, by omega, rfl, hcp, by simp [State.putWords, hw, hp, hcp]⟩))

/-- A property that holding a word, dropping one and committing a point keep is kept by a whole CURVE PUT. -/
theorem State.putWords_keeps {Inv : State → Prop} (p : MasterPort)
    (hdrop : ∀ s, Inv s → Inv (s.setCursor p { (s.port p).cursor with phase := .even }))
    (hhold : ∀ s w, Inv s → w ≤ 1000 → Inv (s.setCursor p { (s.port p).cursor with phase := .half w }))
    (hcommit : ∀ s held w points, Inv s → w ≤ 1000 → (s.port p).cursor.phase = .half held →
      commitPoint (s.curve (s.port p).cursor.curve) (s.port p).cursor.index held w = some points →
      Inv (((s.setCurve (s.port p).cursor.curve points).setCursor p
        { (s.port p).cursor with index := (s.port p).cursor.index + 1, phase := .even, lastOp := .write }).refreshCurve
          (s.port p).cursor.curve)) (words : List Nat) (n : Nat) (s : State) (h : Inv s) :
    Inv (State.putWords p words n s).1 := by
  induction words generalizing n s with
  | nil => exact h
  | cons w rest ih =>
    rcases State.putWords_cons p w rest n s with ⟨-, e⟩ | ⟨hw, -, e⟩ | ⟨_, -, -, -, e⟩ | ⟨held, points, hw, hp, hc, e⟩ <;>
      rw [e]
    · exact hdrop s h
    · exact ih _ _ (hhold s w h hw)
    · exact hdrop s h
    · exact ih _ _ (hcommit s held w points h hw hp hc)

end Sys2Proof.Machine
end

