-- ==== Sys2Proof/WellFormed.lean ====
section
/-! DEFINITION. Which commands can occur: what a frame can carry (R147: LEN is 1..250), and that an UNKNOWN_FUNCTION
names no master function (R152). The meanings are total: an ill-formed command is no stop. -/

namespace Sys2Proof

/-- A request's body bytes after the function byte fit a frame of LEN at most 250 (R147). -/
def argsFit (args : List Byte) : Bool := args.length ≤ 249

/-- The command can occur on the machine's lines. -/
def WellFormed (i : Instr) : Bool :=
  match i.request? with
  | some (_, _, args) => argsFit args
  | none =>
    match i with
    | .unknownFunction _ code args => argsFit args && (MasterFn.ofCode code).isNone
    | .moveTimerExpiry _ key => decide (key < Config.maxKeys)
    | .askTimerExpiry _ key => decide (key < Config.maxKeys)
    | _ => true

end Sys2Proof
end

