-- ==== Sys2Proof/Laws/PerInstr.lean ====
section
/-! SUPPORT. The one family of statements made per command: a request's port, function and body bytes are read back from it
and make the same command again, so that nothing of a request is lost between its frame and its command (R152, R173). -/

namespace Sys2Proof.Laws

/-- A command that is a request is the command that its own port, function and body bytes make, and the function's code
names that function. -/
def RequestRoundTrip.Statement (i : Instr) : Prop :=
  ∀ p fn args, i.request? = some (p, fn, args) →
    fn.command p args = i ∧ MasterFn.ofCode fn.code = some fn ∧ decodeRequest p fn.code args = i

/-- Every function's code names it (R173). -/
theorem ofCode_code (fn : MasterFn) : MasterFn.ofCode fn.code = some fn := by cases fn <;> rfl

theorem RequestRoundTrip.of_command {i : Instr} {p : MasterPort} {fn : MasterFn} {args : List Byte}
    (h : i.request? = some (p, fn, args)) (hc : fn.command p args = i) : RequestRoundTrip.Statement i := by
  intro p' fn' args' h'
  rw [h] at h'
  obtain ⟨rfl, rfl, rfl⟩ : p = p' ∧ fn = fn' ∧ args = args' := by simpa using h'
  exact ⟨hc, ofCode_code fn, by rw [decodeRequest, ofCode_code]; exact hc⟩

theorem RequestRoundTrip.of_none {i : Instr} (h : i.request? = none) : RequestRoundTrip.Statement i := by
  intro p fn args h'
  rw [h] at h'
  cases h'

theorem RequestRoundTrip.powerOn : Statement .powerOn := of_none rfl
theorem RequestRoundTrip.sheetPulse : Statement .sheetPulse := of_none rfl
theorem RequestRoundTrip.identify (port : MasterPort) (args : List Byte) : Statement (.identify port args) := of_command rfl rfl
theorem RequestRoundTrip.sheetGet (port : MasterPort) (args : List Byte) : Statement (.sheetGet port args) := of_command rfl rfl
theorem RequestRoundTrip.towerStatus (port : MasterPort) (args : List Byte) : Statement (.towerStatus port args) := of_command rfl rfl
theorem RequestRoundTrip.keyStatus (port : MasterPort) (args : List Byte) : Statement (.keyStatus port args) := of_command rfl rfl
theorem RequestRoundTrip.configGet (port : MasterPort) (args : List Byte) : Statement (.configGet port args) := of_command rfl rfl
theorem RequestRoundTrip.faultsTake (port : MasterPort) (args : List Byte) : Statement (.faultsTake port args) := of_command rfl rfl
theorem RequestRoundTrip.windowSet (port : MasterPort) (args : List Byte) : Statement (.windowSet port args) := of_command rfl rfl
theorem RequestRoundTrip.writeModeSet (port : MasterPort) (args : List Byte) : Statement (.writeModeSet port args) := of_command rfl rfl
theorem RequestRoundTrip.zonesWrite (port : MasterPort) (args : List Byte) : Statement (.zonesWrite port args) := of_command rfl rfl
theorem RequestRoundTrip.zonesFill (port : MasterPort) (args : List Byte) : Statement (.zonesFill port args) := of_command rfl rfl
theorem RequestRoundTrip.zonesRead (port : MasterPort) (args : List Byte) : Statement (.zonesRead port args) := of_command rfl rfl
theorem RequestRoundTrip.zonesAbove (port : MasterPort) (args : List Byte) : Statement (.zonesAbove port args) := of_command rfl rfl
theorem RequestRoundTrip.slotClear (port : MasterPort) (args : List Byte) : Statement (.slotClear port args) := of_command rfl rfl
theorem RequestRoundTrip.slotTagSet (port : MasterPort) (args : List Byte) : Statement (.slotTagSet port args) := of_command rfl rfl
theorem RequestRoundTrip.curveSelect (port : MasterPort) (args : List Byte) : Statement (.curveSelect port args) := of_command rfl rfl
theorem RequestRoundTrip.curvePut (port : MasterPort) (args : List Byte) : Statement (.curvePut port args) := of_command rfl rfl
theorem RequestRoundTrip.curveGet (port : MasterPort) (args : List Byte) : Statement (.curveGet port args) := of_command rfl rfl
theorem RequestRoundTrip.curveClear (port : MasterPort) (args : List Byte) : Statement (.curveClear port args) := of_command rfl rfl
theorem RequestRoundTrip.measure (port : MasterPort) (args : List Byte) : Statement (.measure port args) := of_command rfl rfl
theorem RequestRoundTrip.configSet (port : MasterPort) (args : List Byte) : Statement (.configSet port args) := of_command rfl rfl
theorem RequestRoundTrip.engage (port : MasterPort) (args : List Byte) : Statement (.engage port args) := of_command rfl rfl
theorem RequestRoundTrip.disengage (port : MasterPort) (args : List Byte) : Statement (.disengage port args) := of_command rfl rfl
theorem RequestRoundTrip.jobChange (port : MasterPort) (args : List Byte) : Statement (.jobChange port args) := of_command rfl rfl
theorem RequestRoundTrip.hold (port : MasterPort) (args : List Byte) : Statement (.hold port args) := of_command rfl rfl
theorem RequestRoundTrip.release (port : MasterPort) (args : List Byte) : Statement (.release port args) := of_command rfl rfl
theorem RequestRoundTrip.trimSet (port : MasterPort) (args : List Byte) : Statement (.trimSet port args) := of_command rfl rfl
theorem RequestRoundTrip.trimNudge (port : MasterPort) (args : List Byte) : Statement (.trimNudge port args) := of_command rfl rfl
theorem RequestRoundTrip.clearKeyFault (port : MasterPort) (args : List Byte) : Statement (.clearKeyFault port args) := of_command rfl rfl
theorem RequestRoundTrip.accessSet (port : MasterPort) (args : List Byte) : Statement (.accessSet port args) := of_command rfl rfl
theorem RequestRoundTrip.restart (port : MasterPort) (args : List Byte) : Statement (.restart port args) := of_command rfl rfl
theorem RequestRoundTrip.restartTakesEffect : Statement .restartTakesEffect := of_none rfl
theorem RequestRoundTrip.unknownFunction (port : MasterPort) (code : Byte) (args : List Byte) : Statement (.unknownFunction port code args) := of_none rfl
theorem RequestRoundTrip.masterBadFrame (port : MasterPort) (first : Option Byte) : Statement (.masterBadFrame port first) := of_none rfl
theorem RequestRoundTrip.masterFrameAbandon (port : MasterPort) : Statement (.masterFrameAbandon port) := of_none rfl
theorem RequestRoundTrip.done (tower : TowerIx) (key : Byte) (position : BitVec 16) : Statement (.done tower key position) := of_none rfl
theorem RequestRoundTrip.fault (tower : TowerIx) (key : Byte) (kind : ReportKind) (position : BitVec 16) : Statement (.fault tower key kind position) := of_none rfl
theorem RequestRoundTrip.pos (tower : TowerIx) (key : Byte) (position : BitVec 16) : Statement (.pos tower key position) := of_none rfl
theorem RequestRoundTrip.drivePortBadFrame (tower : TowerIx) : Statement (.drivePortBadFrame tower) := of_none rfl
theorem RequestRoundTrip.driveFrameAbandon (tower : TowerIx) : Statement (.driveFrameAbandon tower) := of_none rfl
theorem RequestRoundTrip.moveTimerExpiry (tower : TowerIx) (key : Nat) : Statement (.moveTimerExpiry tower key) := of_none rfl
theorem RequestRoundTrip.askTimerExpiry (tower : TowerIx) (key : Nat) : Statement (.askTimerExpiry tower key) := of_none rfl
theorem RequestRoundTrip.masterLinkCharacter (port : MasterPort) (ch : Character) : Statement (.masterLinkCharacter port ch) := of_none rfl
theorem RequestRoundTrip.drivePortCharacter (tower : TowerIx) (ch : Character) : Statement (.drivePortCharacter tower ch) := of_none rfl
theorem RequestRoundTrip.replySent (port : MasterPort) : Statement (.replySent port) := of_none rfl
theorem RequestRoundTrip.drivePortMessageSent (tower : TowerIx) : Statement (.drivePortMessageSent tower) := of_none rfl

end Sys2Proof.Laws
end

