-- ==== Sys2Proof/Laws/Requests.lean ====
section
/-! SUPPORT. What taking a request can do (R148, R151): nothing on a busy port, a two-byte refusal that changes nothing else,
or the effect of its own steps with the reply they give. -/

namespace Sys2Proof.Machine

theorem State.takeRequest_busy {s : State} {p : MasterPort} (h : s.busy p = true) (fn : MasterFn) (args : List Byte)
    (body : MasterPort → List Byte → State → Taken) : s.takeRequest p fn args body = s := by
  simp [State.takeRequest, h]

theorem State.takeRequest_early {s : State} {p : MasterPort} {fn : MasterFn} {args : List Byte} {r : Result}
    (h : s.busy p = false) (he : s.earlyRefusal p fn args = some r) (body : MasterPort → List Byte → State → Taken) :
    s.takeRequest p fn args body = s.sendReply p [replyByte fn.code, r.code] := by
  simp [State.takeRequest, h, he]

theorem State.takeRequest_error {s : State} {p : MasterPort} {fn : MasterFn} {args : List Byte} {r : Result}
    {body : MasterPort → List Byte → State → Taken} (h : s.busy p = false) (he : s.earlyRefusal p fn args = none)
    (hb : body p args s = .error r) : s.takeRequest p fn args body = s.sendReply p [replyByte fn.code, r.code] := by
  simp [State.takeRequest, h, he, hb]

theorem State.takeRequest_ok {s s' : State} {p : MasterPort} {fn : MasterFn} {args data : List Byte} {r : Result}
    {body : MasterPort → List Byte → State → Taken} (h : s.busy p = false) (he : s.earlyRefusal p fn args = none)
    (hb : body p args s = .ok (s', r, data)) :
    s.takeRequest p fn args body = s'.sendReply p (replyByte fn.code :: r.code :: data) := by
  simp [State.takeRequest, h, he, hb]

/-- Everything that taking a request can do. -/
theorem State.takeRequest_cases (s : State) (p : MasterPort) (fn : MasterFn) (args : List Byte)
    (body : MasterPort → List Byte → State → Taken) :
    (s.busy p = true ∧ s.takeRequest p fn args body = s) ∨
    (s.busy p = false ∧ ∃ r : Result, (s.earlyRefusal p fn args = some r ∨ body p args s = .error r) ∧
      s.takeRequest p fn args body = s.sendReply p [replyByte fn.code, r.code]) ∨
    (s.busy p = false ∧ s.earlyRefusal p fn args = none ∧ ∃ s' r data, body p args s = .ok (s', r, data) ∧
      s.takeRequest p fn args body = s'.sendReply p (replyByte fn.code :: r.code :: data)) := by
  cases hbusy : s.busy p with
  | true => exact .inl ⟨rfl, State.takeRequest_busy hbusy fn args body⟩
  | false =>
    cases he : s.earlyRefusal p fn args with
    | some r => exact .inr (.inl ⟨rfl, r, .inl rfl, State.takeRequest_early hbusy he body⟩)
    | none =>
      cases hb : body p args s with
      | error r => exact .inr (.inl ⟨rfl, r, .inr rfl, State.takeRequest_error hbusy he hb⟩)
      | ok out => exact .inr (.inr ⟨rfl, rfl, out.1, out.2.1, out.2.2, rfl, State.takeRequest_ok hbusy he hb⟩)

/-- A property that a request's own steps keep, and that neither a reply nor a framer can break, is kept by the request. -/
theorem State.takeRequest_keeps {Inv : State → Prop} {s : State} {p : MasterPort} {fn : MasterFn} {args : List Byte}
    {body : MasterPort → List Byte → State → Taken} (h : Inv s)
    (hreply : ∀ (u : State) (q : MasterPort) (bytes : List Byte), Inv u → Inv (u.sendReply q bytes))
    (hbody : ∀ s' r data, body p args s = .ok (s', r, data) → Inv s') : Inv (s.takeRequest p fn args body) := by
  rcases s.takeRequest_cases p fn args body with ⟨-, e⟩ | ⟨-, r, -, e⟩ | ⟨-, -, s', r, data, hb, e⟩ <;> rw [e]
  · exact h
  · exact hreply _ _ _ h
  · exact hreply _ _ _ (hbody _ _ _ hb)

end Sys2Proof.Machine
end

