-- ==== Sys2Proof/Tests/Slice0.lean ====
section
/-! SUPPORT. The model's own tests: the ill-formed commands that WellFormed refuses, single steps of the spec's worked sequences
with the results the spec gives, and for each statement that has premises a concrete case that meets them. -/

namespace Sys2Proof.Tests

open Sys2Proof.Machine

set_option Elab.async false

/-! ### WellFormed -/

theorem test_wf_long_request_refused : WellFormed (.zonesWrite .plate (List.replicate 250 0#8)) = false := by decide +kernel
theorem test_wf_longest_request : WellFormed (.zonesWrite .plate (List.replicate 249 0#8)) = true := by decide +kernel
theorem test_wf_known_code_refused : WellFormed (.unknownFunction .console 0x3A#8 []) = false := by decide +kernel
theorem test_wf_unknown_code : WellFormed (.unknownFunction .console 0x60#8 []) = true := by decide +kernel
theorem test_wf_long_unknown_refused : WellFormed (.unknownFunction .console 0#8 (List.replicate 250 0#8)) = false := by
  decide +kernel
theorem test_wf_move_timer_key_refused : WellFormed (.moveTimerExpiry 0 48) = false := by decide +kernel
theorem test_wf_ask_timer_key_refused : WellFormed (.askTimerExpiry 0 48) = false := by decide +kernel
theorem test_wf_last_key : WellFormed (.moveTimerExpiry 11 47) = true := by decide +kernel

/-! ### Small states -/

/-- The state a command leaves. -/
def after (c : Instr) (s : State) : State :=
  match exec c s with
  | .next u => u
  | _ => s

/-- What a port is left answering. -/
def reply (c : Instr) (p : MasterPort) (s : State) : Option (List Byte) := ((after c s).port p).reply

/-- A key at its target of 500. -/
def restingKey : KeyRec :=
  { drive := .idle 500, target := some { opening := 500, steps := 500, mark := .none }, effective := some 500, trim := 0,
    acc := 0, settleUntil := 0#32 }

/-- A tower of 16 keys and one motor slot, RUN and NEXT COMPLETE with 500 everywhere, every key at its target. -/
def plainTower (state : TowerState) : Tower where
  config :=
    { geometry := { z := 16, f := 1000, reversed := false }
      metering := { TowerConfig.powerOn.metering with split := 16 }
      drive := { concurrency := 1, settleSheets := 30, moveTimeout := 3000, tolerance := 2 }
      loop := { enable := true, gain := 250, deadband := 20, stepLimit := 10 } }
  run := { coverage := List.replicate 16 (some 500), tag := none, mirrored := false }
  next := { coverage := List.replicate 16 (some 500), tag := none, mirrored := false }
  state := state
  keys := List.replicate 16 restingKey
  queue := []
  moving := 0
  sweep := some 50
  lastSweep := none
  counters := LoopCounters.zero
  port := { framer := Framer.hunting, sending := none, waiting := [] }

/-- The same with key 0 MOVING and key 1 QUEUED, each toward 500 from 400. -/
def busyTower (state : TowerState) : Tower :=
  { plainTower state with
    keys := { restingKey with drive := .moving 400 500 3000 } :: { restingKey with drive := .queued 400 } ::
      List.replicate 14 restingKey
    queue := [1]
    moving := 1 }

/-- The power-on machine with tower 1 replaced and curve 0 a straight line. -/
def site (tw : Tower) : State := (State.reset.setTower 1 tw).setCurve 0 [⟨0, 0⟩, ⟨1000, 1000⟩]

/-- A site whose plate port writes into tower 1. -/
def plateSite (tw : Tower) (slot : SlotName) (pointer : Option Nat) (direction : Direction) : State :=
  (site tw).setCtx .plate
    { tower := 1, slot := slot, first := 0, last := 15, pointer := pointer, direction := direction, mode := .replace,
      mask := BitVec.allOnes 48 }

/-- The site with another set of curves or cursors. -/
def curveSite (points : List Point) (c : Cursor) : State := (State.reset.setCurve 5 points).setCursor .plate c

/-! ### Single steps of the worked sequences -/

/-- Section 1.7: tower 7 refitted, before its CONFIG SET. -/
def tower7 (concurrency : Nat) (state : TowerState) : State :=
  State.reset.setTower 7 { Tower.powerOn with
    config := { TowerConfig.powerOn with
      metering := { TowerConfig.powerOn.metering with curveA := 2, curveB := 2 }
      drive := { TowerConfig.powerOn.drive with concurrency := concurrency } }
    state := state }

/-- The request of step 6: Z 36, F 2400, curves 2 and 9, S 20, scale 160, C 3. -/
def refit : List Byte :=
  [7, 36, 0x09, 0x60, 0, 2, 9, 20, 4, 2, 1, 160, 0, 0, 0x03, 0xE8, 0, 3, 30, 0x0B, 0xB8, 2, 0, 0x00, 0xFA, 0, 20, 10, 20, 60]

theorem test_config_set_reshapes :
    reply (.configSet .console refit) .console (tower7 4 .dark) = some [0xB0#8, 0x01#8] ∧
      ((after (.configSet .console refit) (tower7 4 .dark)).tower 7).keys.length = 36 ∧
      ((after (.configSet .console refit) (tower7 4 .dark)).tower 7).config.metering.scale = 150 := by decide +kernel

theorem test_config_set_refused_printing :
    exec (.configSet .console refit) (tower7 4 .printing) =
      .next ((tower7 4 .printing).sendReply .console [0xB0#8, 0x08#8]) := by rfl

/-- Section 2.9, step 4: the second message at pointer 7, DOWN, with zone 17 masked out. -/
def tower4 (pointer : Option Nat) : State :=
  (State.reset.setTower 4 { plainTower .printing with
    config := { (plainTower .printing).config with geometry := { z := 20, f := 1000, reversed := false } }
    next := { coverage := List.replicate 8 none ++ ([140, 260, 390, 505, 580, 610, 455, 310, 120].map some ++
      [none, some 35, some 0]), tag := none, mirrored := false } }).setCtx .plate
    { tower := 4, slot := .next, first := 0, last := 19, pointer := pointer, direction := .down, mode := .replace,
      mask := ~~~(1#48 <<< 17) }

def secondMessage : List Byte := [90, 1040, 870, 640, 420, 210, 60, 0, 55, 70].flatMap bytes16

theorem test_zones_write_second_message :
    reply (.zonesWrite .plate secondMessage) .plate (tower4 (some 7)) = some [0x92#8, 0x01#8, 8#8, 0xFF#8] ∧
      ((after (.zonesWrite .plate secondMessage) (tower4 (some 7))).tower 4).next.coverage.take 8 =
        [0, 60, 210, 420, 640, 870, 1000, 90].map some := by decide +kernel

theorem test_zones_write_repeat_discarded :
    reply (.zonesWrite .plate secondMessage) .plate (tower4 none) = some [0x92#8, 0x01#8, 0#8, 0xFF#8] := by decide +kernel

theorem test_zones_above :
    reply (.zonesAbove .plate [0x01#8, 0xF4#8]) .plate (after (.replySent .plate)
      (after (.zonesWrite .plate secondMessage) (tower4 (some 7)))) =
      some [0x95#8, 0#8, 0#8, 0#8, 0#8, 0#8, 0x38#8, 0x70#8] := by decide +kernel

/-- Section 3.8, step 3: the second message of CURVE PUT, its third pair out of order. -/
theorem test_curve_put_order :
    reply (.curvePut .plate ([390, 700, 720, 650, 800, 1000, 900].flatMap bytes16)) .plate
      (curveSite [⟨0, 60⟩, ⟨150, 170⟩] { curve := 5, index := 2, phase := .half 400, lastOp := .write }) =
      some [0x99#8, 0x0C#8, 2#8, 5#8, 4#8, 0#8, 0#8, 0#8, 2#8, 4#8] := by decide +kernel

/-- Section 3.8, step 4: CURVE GET of 12 points from index 2. -/
theorem test_curve_get_from_index :
    reply (.curveGet .plate [12#8]) .plate
      (curveSite [⟨0, 60⟩, ⟨150, 170⟩, ⟨400, 390⟩, ⟨700, 720⟩] { curve := 5, index := 2, phase := .even, lastOp := .none }) =
      some [0x9A#8, 0#8, 2#8, 5#8, 4#8, 0#8, 0#8, 0#8, 1#8, 4#8, 0x01#8, 0x90#8, 0x01#8, 0x86#8, 0x02#8, 0xBC#8, 0x02#8,
        0xD0#8] := by decide +kernel

/-- Section 4.4: tower 6 as its last two zones are written. -/
def tower6 : State :=
  let trims : List Int := [25, 0, 0, -10, 0, 0, 20, 0, 100, 0, 0, -60, 0, 0, 0, 0]
  let accs : List Int := [0, 0, 0, 0, 6, 0, -4, 12, 0, 0, 0, 0, 0, -8, 0, 0]
  let s := ((State.reset.setTower 6 { Tower.powerOn with
    config :=
      { geometry := { z := 16, f := 1200, reversed := false }
        metering := { curveA := 5, curveB := 9, split := 11, w0 := 4, w1 := 2, w2 := 1, scale := 104, minOpen := 40,
                      maxOpen := 900, closeEmpty := true, sweepBase := 20, sweepGain := 60 }
        drive := TowerConfig.powerOn.drive
        loop := TowerConfig.powerOn.loop }
    run := { coverage := ([120, 300, 240, 90, 150, 610, 740, 980, 1000, 860, 430, 260, 180, 0, 0].map some) ++ [none],
             tag := none, mirrored := true }
    next := Slot.emptied 16
    keys := (trims.zip accs).map fun (trim, acc) =>
      { KeyRec.fresh with drive := .idle 0, trim := trim, acc := acc } }).setCurve 5
        [⟨0, 60⟩, ⟨150, 200⟩, ⟨400, 390⟩, ⟨700, 720⟩, ⟨950, 800⟩, ⟨1000, 900⟩]).setCurve 9 [⟨150, 90⟩, ⟨300, 250⟩, ⟨600, 500⟩]
  s.setCtx .console { (s.port .console).ctx with tower := 6, slot := .run, first := 15, last := 15, pointer := some 15 }

theorem test_preset_targets :
    (((after (.zonesWrite .console [0#8, 0#8]) tower6).tower 6).keys.map fun k => k.target.map fun g => (g.opening, g.steps)) =
      [(40, 48), (82, 98), (123, 148), (212, 254), (342, 410), (536, 643), (782, 938), (822, 986), (900, 1080), (780, 936),
       (749, 899), (40, 48), (105, 126), (142, 170), (175, 210), (137, 164)].map some := by decide +kernel

theorem test_preset_sweep_and_marks :
    ((after (.zonesWrite .console [0#8, 0#8]) tower6).tower 6).sweep = some 43 ∧
      (((after (.zonesWrite .console [0#8, 0#8]) tower6).tower 6).keys.map fun k => k.target.map Target.mark) =
        [.none, .none, .none, .none, .none, .none, .none, .none, .high, .none, .none, .low, .none, .none, .none,
         .none].map some := by decide +kernel

/-- The table of R83: count byte 0xF6 is -10. -/
theorem test_nudge_count_bytes : [0x00, 0x01, 0x1F, 0x20, 0x36, 0x3F, 0xF6].map nudgeCount = [0, 1, 31, -32, -10, -1, -10] := by
  decide +kernel

/-- R84: two entries of +31 for a key at +280. -/
theorem test_nudge_clamps_each_entry :
    reply (.trimNudge .console [1, 0, 31, 0, 31]) .console
      (site { plainTower .dark with keys := { restingKey with trim := 280 } :: List.replicate 15 restingKey }) =
      some [0xB7#8, 0x01#8, 1#8, 0x01#8, 0x2C#8, 0x01#8, 0x2C#8] := by decide +kernel

/-- Section 6.7: tower 3 and the measurement message. -/
def tower3 : State :=
  let mk := fun (d : Drive) (e target : Nat) (trim acc : Int) (until_ : Nat) (mark : ClampMark) =>
    ({ drive := d, target := some { opening := target, steps := target, mark := mark }, effective := some e, trim := trim,
       acc := acc, settleUntil := BitVec.ofNat 32 until_ } : KeyRec)
  let keys := (List.range 36).map fun k =>
    match k with
    | 5 => mk (.moving 500 520 3000) 520 520 0 0 1000390 .none
    | 7 => mk (.idle 610) 610 610 0 0 1000470 .none
    | 9 => mk (.idle 350) 350 350 0 0 1000400 .none
    | 12 => mk (.idle 105) 300 105 0 (-195) 1000400 .none
    | 14 => mk (.idle 404) 400 404 0 4 1000400 .none
    | 16 => mk (.idle 30) 42 30 (-50) 0 1000400 .low
    | 21 => mk (.faulted .stall (some 180)) 190 190 0 0 1000200 .none
    | _ => mk (.idle 100) 100 100 0 0 0 .none
  let tw : Tower := { plainTower .printing with
    config :=
      { geometry := { z := 36, f := 1000, reversed := false }
        metering := { TowerConfig.powerOn.metering with split := 36, w0 := 1, w1 := 0, w2 := 0, minOpen := 30 }
        drive := TowerConfig.powerOn.drive
        loop := { enable := true, gain := 250, deadband := 20, stepLimit := 10 } }
    run := { coverage := keys.map fun key : KeyRec => key.effective, tag := none, mirrored := false }
    next := Slot.emptied 36
    keys := keys
    moving := 1
    counters := { applied := 118, settleSkipped := 40, deadbandSkipped := 25, stateSkipped := 6 } }
  { (State.reset.setTower 3 tw).setCurve 0 [⟨0, 0⟩, ⟨1000, 1000⟩] with sheets := 1000480#32 }

def measurement : List Byte :=
  [3] ++ bytes32 1000452#32 ++ ([(5, 40), (7, -70), (9, 15), (12, 100), (14, -60), (16, 34), (14, -55), (16, 1200),
    (21, 80)] : List (Nat × Int)).flatMap fun e => byteOf e.1 :: bytesSigned16 e.2

theorem test_measure_counts :
    reply (.measure .scanner measurement) .scanner tower3 = some [0xA0#8, 1#8, 4#8, 1#8, 1#8, 3#8] ∧
      ((after (.measure .scanner measurement) tower3).tower 3).counters =
        { applied := 122, settleSkipped := 41, deadbandSkipped := 26, stateSkipped := 9 } := by decide +kernel

theorem test_measure_moves :
    ((after (.measure .scanner measurement) tower3).tower 3).moving = 3 ∧
      (((after (.measure .scanner measurement) tower3).tower 3).keys[12]?.map KeyRec.acc) = some (-200) ∧
      (((after (.measure .scanner measurement) tower3).tower 3).keys[14]?.map KeyRec.drive) = some (.moving 404 414 3000) := by
  decide +kernel

/-- R131: with tolerance 2, a DONE at 498 for 500 queues the key again; the key is sent behind the one that waits. -/
theorem test_done_requeues :
    ((after (.done 1 0 498#16) (site (busyTower .printing))).tower 1).queue = [0] ∧
      (((after (.done 1 0 498#16) (site (busyTower .printing))).tower 1).keys[1]?.map KeyRec.drive) =
        some (.moving 400 500 3000) := by decide +kernel

theorem test_done_short :
    (after (.done 1 0 497#16) (site (busyTower .printing))).faults.records =
      [{ kind := .short, origin := .key 1 0, first := 0#32, last := 0#32, count := 1 }] := by decide +kernel

/-- R132: a FAULT frees the motor slot for the key that waits. -/
theorem test_fault_frees_slot :
    (((after (.fault 1 0 .overrange 450#16) (site (busyTower .presetting))).tower 1).keys.take 2).map KeyRec.drive =
      [.faulted .overrange (some 450), .moving 400 500 3000] := by decide +kernel

/-- R118: the tower stays PRESETTING while the key that waited moves. -/
theorem test_timeout_keeps_presetting :
    ((after (.moveTimerExpiry 1 0) (site (busyTower .presetting))).tower 1).state = .presetting ∧
      ((after (.moveTimerExpiry 1 0) (site (busyTower .presetting))).tower 1).moving = 1 := by decide +kernel

/-- R139: no answer in 500 ms. -/
theorem test_ask_expiry :
    ((after (.askTimerExpiry 2 31) State.reset).tower 2).keys[31]?.map KeyRec.drive = some (.faulted .noAnswer none) := by
  decide +kernel

/-- R137: a survey answer in DARK queues nothing. -/
theorem test_pos_in_dark :
    ((after (.pos 2 31 7#16) State.reset).tower 2).keys[31]?.map KeyRec.drive = some (.idle 7) ∧
      ((after (.pos 2 31 7#16) State.reset).tower 2).queue = [] := by decide +kernel

/-- R108: a tower whose keys all stand at their targets is PRINTING when the reply is sent, its SWEEP sent. -/
theorem test_engage_drains :
    ((after (.engage .console [1#8]) (site (plainTower .dark))).tower 1).state = .printing ∧
      ((after (.engage .console [1#8]) (site (plainTower .dark))).tower 1).port.sending = some (.sweep 50) := by decide +kernel

theorem test_disengage_idles : ((after (.disengage .console [1#8]) (site (busyTower .printing))).tower 1).keys[1]?.map
    KeyRec.drive = some (.idle 400) := by decide +kernel

theorem test_job_change_dark_unknown : reply (.jobChange .console [1#8, 0#8]) .console
    (site { plainTower .dark with keys := List.replicate 16 KeyRec.fresh }) = some [0xB3#8, 0x0A#8] := by decide +kernel

theorem test_job_change_moves_plate :
    ((after (.jobChange .console [1#8, 1#8]) (site (plainTower .printing))).tower 1).next = Slot.emptied 16 := by
  decide +kernel

/-- R113, R120, R128: a plate of 400 in a PRINTING tower with one motor slot. Key 0 is sent first, then the changed SWEEP; the others
wait in ascending order. -/
theorem test_job_change_orders_queue_and_messages :
    let u := after (.jobChange .console [1#8, 1#8]) (site { plainTower .printing with
      next := { coverage := List.replicate 16 (some 400), tag := none, mirrored := false } })
    (u.tower 1).queue = (List.range 15).map (· + 1) ∧ (u.tower 1).port.sending = some (.move 0 400) ∧
      (u.tower 1).port.waiting = [.sweep 44] ∧ (u.tower 1).state = .presetting := by decide +kernel

/-- R53, R61, R62: the curve of a PRINTING tower cleared; its targets are held, one fault is logged. -/
theorem test_curve_clear_holds_targets :
    let u := after (.curveClear .plate [0#8]) (site (plainTower .printing))
    (u.tower 1).keys = (plainTower .printing).keys ∧
      u.faults.records = [{ kind := .curveIncomplete, origin := .tower 1, first := 0#32, last := 0#32, count := 1 }] := by
  decide +kernel

/-- R37: a mirrored byte of neither encoding. -/
theorem test_slot_tag_range : reply (.slotTagSet .plate [1#8, 1#8, 0#8, 0#8, 0#8, 1#8, 2#8]) .plate State.reset =
    some [0x97#8, 0x07#8] := by decide +kernel

theorem test_hold_dark_refused : reply (.hold .console [1#8]) .console (site (plainTower .dark)) = some [0xB4#8, 0x08#8] := by
  decide +kernel

theorem test_release_to_presetting :
    ((after (.release .console [1#8]) (site (busyTower .held))).tower 1).state = .presetting := by decide +kernel

theorem test_clear_key_fault_counts :
    reply (.clearKeyFault .console [1#8, 0xFF#8]) .console
      (site { plainTower .held with keys := List.replicate 16 { restingKey with drive := .faulted .driver none } }) =
      some [0xB8#8, 0#8, 16#8] := by decide +kernel

theorem test_restart_takes_effect :
    ((after .restartTakesEffect { site (busyTower .printing) with restartPending := true }).tower 1).port.waiting.length = 15 ∧
      ((after .restartTakesEffect { site (busyTower .printing) with restartPending := true }).tower 1).state = .dark := by
  decide +kernel

/-- R147: the frame of TOWER STATUS for tower 5 in section 11, its last character. -/
theorem test_last_character_takes_frame :
    after (.masterLinkCharacter .scanner { data := 0xF6#8, parity := true }) (State.reset.setFramer .scanner
      { phase := .check, marker := false, timer := true, len := 2, body := [0x03#8, 5#8] }) =
      after (.towerStatus .scanner [5#8]) State.reset := by decide +kernel

theorem test_bad_sum_answers_frame :
    reply (.masterLinkCharacter .plate { data := 0xF7#8, parity := false }) .plate (State.reset.setFramer .plate
      { phase := .check, marker := false, timer := true, len := 2, body := [0x03#8, 5#8] }) = some [0x83#8, 0x02#8] := by
  decide +kernel

theorem test_sheet_count_wraps : (after .sheetPulse { State.reset with sheets := 0xFFFFFFFF#32 }).sheets = 0#32 := by
  decide +kernel

/-! ### Premises of the statements are met

One theorem a statement, named after it: each conjunct is a case of its premises, at the ends of their ranges. -/

theorem plain_shape (st : TowerState) : (plainTower st).ShapeSound := by
  unfold Tower.ShapeSound Slot.Sound TowerConfig.Sound; cases st <;> decide +kernel

theorem plain_queue (st : TowerState) : (plainTower st).QueueSound :=
  Tower.queueSound_of_check (by cases st <;> decide +kernel)

theorem busy_queue (st : TowerState) (h : st ≠ .dark) : (busyTower st).QueueSound :=
  Tower.queueSound_of_check (by cases st <;> first | decide +kernel | exact absurd rfl h)

theorem idle_ports (p : MasterPort) : State.reset.busy p = false := by cases p <;> rfl

theorem premises_StepTakesFrontCommand : State.reset.pending = [] := rfl

theorem premises_CodesAreAsTabled :
    (∀ fn : MasterFn, fn.code ≠ 0x00#8) ∧ (∀ fn : MasterFn, fn.code ≠ 0x3B#8) ∧ 3 ≤ (3#8).toNat ∧ 2 ≤ (2#8).toNat ∧
      4 ≤ (4#8).toNat ∧ (0x5F#8 : Byte) ∉ [0x60#8, 0x61#8, 0x62#8] ∧ (0x62#8 : Byte) ∈ [0x60#8, 0x62#8] ∧
      [1#8, 2#8].length ≠ 3 ∧ [1#8, 2#8, 3#8].length ≠ 4 :=
  ⟨fun fn => by cases fn <;> decide, fun fn => by cases fn <;> decide, by decide, by decide, by decide, by decide, by decide,
    by decide, by decide⟩

theorem premises_SheetCountAdvancesAndIsReturned : State.reset.busy .scanner = false := rfl

theorem premises_IdentifyReturnsFixedValues : State.reset.busy .plate = false := rfl

theorem premises_TowerStatusReturnsRecord :
    let tw := (site (plainTower .held)).tower 1
    (11#8).toNat = (11 : TowerIx).val ∧ (1#8).toNat = (1 : TowerIx).val ∧ 12 ≤ (12#8).toNat ∧
      (site (plainTower .held)).busy .scanner = false ∧ tw.keys.length ≤ 48 ∧ tw.queue.length ≤ 48 ∧ tw.moving ≤ 8 ∧
      (∀ v ∈ tw.sweep, v ≤ 100) ∧ (∀ v ∈ tw.lastSweep, v ≤ 100) ∧ tw.counters.applied ≤ 65535 ∧
      tw.counters.settleSkipped ≤ 65535 ∧ tw.counters.deadbandSkipped ≤ 65535 ∧ tw.counters.stateSkipped ≤ 65535 := by
  decide +kernel

theorem premises_KeyStatusReturnsRecords :
    let tw := (site (plainTower .dark)).tower 1
    (1#8).toNat = (1 : TowerIx).val ∧ 1 ≤ (12#8).toNat ∧ (12#8).toNat ≤ 12 ∧ (4#8).toNat + (12#8).toNat ≤ tw.z ∧
      tw.keys.length = tw.z ∧
      (∀ key ∈ tw.keys, (-300 ≤ key.trim ∧ key.trim ≤ 300 ∧ -200 ≤ key.acc ∧ key.acc ≤ 200) ∧
        (∀ q ∈ key.drive.position, q ≤ 65535) ∧ (∀ g ∈ key.target, g.opening ≤ 1000 ∧ g.steps ≤ 4000) ∧
        ∀ e ∈ key.effective, e ≤ 1000) ∧
      12 ≤ (12#8).toNat ∧ (0#8).toNat = 0 ∧ 12 < (13#8).toNat ∧ tw.z < (5#8).toNat + (12#8).toNat := by decide +kernel

theorem premises_ConfigGetAndSetRoundTrip :
    (11#8).toNat = (11 : TowerIx).val ∧ (State.reset.tower 11).config.Sound ∧ State.reset.busy .console = false ∧
      12 ≤ (12#8).toNat := by
  unfold TowerConfig.Sound; decide +kernel

/-- A list of n records of distinct keys. -/
def records (n : Nat) : List FaultRecord :=
  (List.range n).map fun k =>
    { kind := .noAnswer, origin := .key 1 k, first := 0#32, last := 5#32, count := 255 }

def faulty (n : Nat) (full : Bool) : State := { State.reset with faults := { records := records n, full := full } }

theorem premises_FaultsTakeReturnsOldestFirst :
    (faulty 32 true).busy .console = false ∧ 1 ≤ (1#8).toNat ∧ (32#8).toNat ≤ 32 ∧ (faulty 32 true).faults.Sound ∧
      (∀ r ∈ (faulty 32 true).faults.records, ∀ t k, r.origin = .key t k → k < 48) ∧ (0#8).toNat = 0 ∧ 32 < (33#8).toNat := by
  refine ⟨rfl, by decide, by decide, by unfold FaultList.Sound; decide +kernel, fun r hr t k h => ?_, rfl, by decide⟩
  simp only [faulty, records, List.mem_map, List.mem_range] at hr
  obtain ⟨n, hn, rfl⟩ := hr
  simp only [Origin.key.injEq] at h
  omega

theorem premises_FunctionAndRankChecks :
    (∀ fn : MasterFn, fn.code ≠ 0xFF#8) ∧ ¬RankAllows .plate .engage ∧ ¬RankAllows .scanner .zonesWrite ∧
      RankAllows .plate .zonesWrite ∧ RankAllows .scanner .measure ∧ RankAllows .console .restart := by
  refine ⟨fun fn => by cases fn <;> decide, ?_⟩
  unfold RankAllows; decide

theorem premises_LengthCheck :
    RankAllows .plate .zonesWrite ∧ LayoutLength .zonesWrite 96 ∧ ¬LayoutLength .zonesWrite 98 ∧
      ¬LayoutLength .zonesWrite 0 ∧ ¬LayoutLength .zonesWrite 3 ∧ LayoutLength .measure 149 ∧ LayoutLength .engage 1 := by
  refine ⟨by unfold RankAllows; decide, ⟨48, by decide⟩, ?_, ?_, ?_, ⟨48, by decide⟩, rfl⟩ <;> rintro ⟨k, h⟩ <;> omega

/-- The plate port denied tower 1 and the curves, the scanner tower 1. -/
def fenced : State :=
  { site (plainTower .dark) with access := { trust := 0, console := 0#13, plate := 0x1002#13, scanner := 0x0002#13 } }

theorem premises_AccessCheckDenies :
    ¬fenced.Permits .plate 1 ∧ ¬fenced.Permits .scanner 1 ∧ ¬fenced.Permits .plate 12 ∧ fenced.Permits .scanner 12 ∧
      fenced.busy .plate = false ∧ RankAllows .scanner .measure ∧ (1#8).toNat = (1 : TowerIx).val ∧
      LayoutLength .measure (7 + 1) ∧ ¬(fenced.setCtx .plate { (fenced.port .plate).ctx with tower := 1 }).Permits .plate
        ((fenced.setCtx .plate { (fenced.port .plate).ctx with tower := 1 }).port .plate).ctx.tower.val := by
  refine ⟨?_, ?_, ?_, ?_, rfl, by unfold RankAllows; decide, rfl, ⟨1, by decide⟩, ?_⟩ <;> unfold State.Permits <;>
    decide +kernel

theorem premises_RefusedRequestChangesNothing :
    ∃ u, exec (MasterFn.engage.command .console [12#8]) State.reset = .next u ∧ State.reset.busy .console = false ∧
      (u.port .console).reply = some [0xB1#8, 0x07#8] ∧ (0x07#8 : Byte) ≠ 0x00#8 ∧ (0x07#8 : Byte) ≠ 0x01#8 :=
  ⟨_, rfl, rfl, by decide +kernel, by decide, by decide⟩

theorem premises_EveryRequestIsAnsweredOnce : ∀ p : MasterPort, State.reset.busy p = false := idle_ports

theorem premises_BusyPortTakesNothing : (State.reset.sendReply .scanner [0x81#8, 0#8]).busy .scanner = true := rfl

theorem premises_MasterFrameIsReceived :
    State.reset.busy .plate = false ∧ (State.reset.port .plate).framer = Framer.hunting ∧
      (List.replicate 249 (0#8 : Byte)).length ≤ 249 := by decide +kernel

theorem premises_DriveFrameIsReceived :
    decodeReport [0x61#8, 47#8, 0x02#8, 0xFF#8, 0xFF#8] = some (.fault 47#8 .driver 0xFFFF#16) ∧
      (State.reset.tower 11).port.framer = Framer.hunting := by decide +kernel

/-- A framer in a phase of a frame of two body bytes. -/
def framer (phase : FramerPhase) (marker : Bool) (body : List Byte) : Framer :=
  { phase := phase, marker := marker, timer := phase != .hunt, len := 2, body := body }

theorem premises_MasterPortFraming :
    goodParity { data := 0xA5#8, parity := true } = true ∧ goodParity { data := 0xA5#8, parity := false } = false ∧
      (State.reset.port .plate).framer.phase = .hunt ∧ (State.reset.port .plate).framer.timer = false ∧
      (let s := State.reset.setFramer .plate (framer .length false []);
        s.busy .plate = false ∧ (s.port .plate).framer.phase = .length ∧ (s.port .plate).framer.timer = true) ∧
      1 ≤ (1#8).toNat ∧ (250#8).toNat ≤ 250 ∧ 250 < (251#8).toNat ∧ (0#8).toNat = 0 ∧
      ((State.reset.setFramer .plate (framer .body false [])).port .plate).framer.phase = .body ∧
      (let s := State.reset.setFramer .plate (framer .check false [3#8, 5#8]);
        s.busy .plate = false ∧ (s.port .plate).framer.phase = .check ∧ (s.port .plate).framer.marker = false ∧
          ((s.port .plate).framer.len + ((s.port .plate).framer.body.map BitVec.toNat).sum + (0xF6#8).toNat) % 256 = 0) ∧
      ((State.reset.setFramer .plate (framer .check true [3#8, 5#8])).port .plate).framer.marker = true := by decide +kernel

theorem premises_DrivePortFraming :
    let s := fun f : Framer => State.reset.setTower 11 (Tower.powerOn.setFramer f)
    (State.reset.tower 11).port.framer.phase = .hunt ∧ (State.reset.tower 11).port.framer.timer = false ∧
      ((s (framer .length false [])).tower 11).port.framer.phase = .length ∧
      ((s (framer .body false [])).tower 11).port.framer.phase = .body ∧
      ((s (framer .check false [0x62#8])).tower 11).port.framer.timer = true ∧ decodeReport [0x62#8] = none ∧
      (let f := { framer .check false [0x62#8, 1#8, 0#8, 9#8] with len := 4 };
        ((s f).tower 11).port.framer.phase = .check ∧ (f.len + (f.body.map BitVec.toNat).sum + (0x90#8).toNat) % 256 = 0 ∧
          decodeReport f.body = some (.pos 1#8 9#16)) ∧
      ((s (framer .check false [0x50#8, 1#8])).tower 11).port.framer.body = [0x50#8, 1#8] ∧
      (0x50#8 : Byte) ∉ [0x60#8, 0x61#8, 0x62#8] ∧ [1#8].length ≠ 3 ∧ [1#8].length ≠ 4 ∧
      (∃ kind ∈ [1#8, 3#8, 0#8, 0#8][1]?, 3 ≤ kind.toNat) ∧
      ((s (framer .check true [])).tower 11).port.framer.marker = true := by decide +kernel

theorem premises_RepliesAndMessagesAreSent :
    (State.reset.sendReply .console [0x81#8, 0#8]).busy .console = true ∧
      (State.reset.sendReply .console [0x81#8, 0#8]).restartPending = false ∧ State.reset.busy .plate = false ∧
      (plainTower .dark).port.sending = none ∧ (plainTower .dark).port.waiting = [] := by decide +kernel

theorem premises_FaultIsMergedAppendedOrDropped :
    (∃ r ∈ (faulty 31 false).faults.records, r.kind = .noAnswer ∧ r.origin = .key 1 30) ∧
      (¬∃ r ∈ (faulty 31 false).faults.records, r.kind = .noAnswer ∧ r.origin = .key 1 31) ∧
      (faulty 31 false).faults.records.length < 32 ∧
      (¬∃ r ∈ (faulty 32 false).faults.records, r.kind = .stall ∧ r.origin = .key 1 31) ∧
      32 ≤ (faulty 32 false).faults.records.length := by decide +kernel

theorem premises_WindowEndIsChosenForPointer :
    State.reset.busy .scanner = false ∧ (11#8).toNat = (11 : TowerIx).val ∧ (0#8).toNat ≤ (31#8).toNat ∧
      (31#8).toNat < (State.reset.tower 11).z ∧ 12 ≤ (12#8).toNat ∧ 2 ≤ (2#8).toNat ∧ (0#8).toNat < (1#8).toNat ∧
      (State.reset.tower 11).z ≤ (32#8).toNat ∧ FieldSet (List.replicate 6 0xFF#8) 0 (BitVec.allOnes 48).getLsbD ∧
      (State.reset.port .scanner).ctx.first ≤ 47 ∧ (State.reset.port .scanner).ctx.last ≤ 47 ∧ 4 ≤ (4#8).toNat ∧
      (∃ u, exec (MasterFn.zonesRead.command .plate []) State.reset = .next u) ∧
      ∃ u, exec (.configSet .console (0#8 :: configBytes (plainTower .dark).config)) State.reset = .next u ∧
        (u.tower 0).z ≠ (State.reset.tower 0).z ∧ (State.reset.port .plate).ctx.tower = 0 := by
  refine ⟨rfl, rfl, by decide, by decide +kernel, by decide, by decide, by decide, by decide +kernel, ?_, by decide +kernel,
    by decide +kernel, by decide, ⟨_, rfl⟩, ⟨_, rfl, by decide +kernel, by decide +kernel⟩⟩
  have : ∀ m, m < 48 → (List.replicate 6 0xFF#8)[0 + (5 - m / 8)]? = some 0xFF#8 ∧
      (0xFF#8 : Byte).getLsbD (m % 8) = (BitVec.allOnes 48).getLsbD m := by decide +kernel
  exact fun m hm => ⟨0xFF#8, (this m hm).1, (this m hm).2⟩

theorem premises_ZonesWriteStreamsThroughPointer :
    ∀ c : Option Nat × Direction × SlotName × TowerState,
      c ∈ [(none, .up, .next, .printing), (some 15, .up, .run, .dark), (some 0, .down, .run, .held),
        (some 0, .up, .next, .presetting)] →
      let s := plateSite (plainTower c.2.2.2) c.2.2.1 c.1 c.2.1
      let k := (s.port .plate).ctx
      MasterPort.plate ≠ .scanner ∧ s.busy .plate = false ∧ k.pointer = c.1 ∧
        (portRank .plate ≤ s.access.trust ∨ (s.access.denyMap .plate).getLsbD k.tower.val = false) ∧
        (k.slot = .next ∨ (s.tower k.tower).state = .dark ∨ (s.tower k.tower).state = .held) ∧
        (k.first ≤ k.last ∧ k.last < (s.tower k.tower).z ∧ ∀ q ∈ k.pointer, k.first ≤ q ∧ q ≤ k.last) ∧
        ((s.tower k.tower).slot k.slot).coverage.length = (s.tower k.tower).z ∧ (s.tower k.tower).z ≤ 48 := by
  decide +kernel

theorem premises_ZonesFillCombinesByMode :
    let s := plateSite (plainTower .held) .run (some 3) .up
    let c := (s.port .plate).ctx
    MasterPort.plate ≠ .scanner ∧ s.busy .plate = false ∧ 65535 < 65536 ∧ s.Permits .plate c.tower.val ∧
      (s.tower c.tower).state = .held ∧ c.Sound (s.tower c.tower).z ∧ ((s.tower c.tower).slot c.slot).Sound (s.tower c.tower).z ∧
      (s.tower c.tower).z ≤ 48 ∧ c.mask.getLsbD 15 = true := by
  unfold State.Permits WriteContext.Sound Slot.Sound; decide +kernel

theorem premises_RunSlotIsNotWrittenWhileRunning :
    ∀ st ∈ [TowerState.presetting, .printing],
      let s := plateSite (plainTower st) .run (some 3) .up
      s.busy .plate = false ∧ (s.port .plate).ctx.slot = .run ∧ (s.tower (s.port .plate).ctx.tower).state = st ∧
        (portRank .plate ≤ s.access.trust ∨ (s.access.denyMap .plate).getLsbD 1 = false) ∧ (1#8).toNat = (1 : TowerIx).val := by
  decide +kernel

theorem premises_ZonesAreReadThroughWindow :
    let s := plateSite (plainTower .held) .run none .down
    let c := (s.port .plate).ctx
    s.busy .plate = false ∧ c.Sound (s.tower c.tower).z ∧ ((s.tower c.tower).slot c.slot).Sound (s.tower c.tower).z ∧
      (s.tower c.tower).z ≤ 48 := by
  unfold WriteContext.Sound Slot.Sound; decide +kernel

theorem premises_SlotClearAndTagSet :
    (site (plainTower .dark)).busy .plate = false ∧ (1#8).toNat = (1 : TowerIx).val ∧
      (site (plainTower .dark)).Permits .plate 1 ∧ ((site (plainTower .dark)).tower 1).state = .dark ∧
      ((site (plainTower .dark)).tower 1).QueueSound ∧ ((site (plainTower .dark)).tower 1).keys.length = 16 ∧
      (plainTower .dark).run.complete = true ∧ (State.reset.tower 1).run.complete = false ∧
      (State.reset.tower 1).run.mirrored = false ∧ (0#8).toNat ≤ 1 ∧ (1#8).toNat ≤ 1 ∧
      (plainTower .dark).run.mirrored = decide ((0#8).toNat = 1) ∧
      (plainTower .dark).run.mirrored ≠ decide ((1#8).toNat = 1) ∧ 12 ≤ (12#8).toNat ∧ 2 ≤ (2#8).toNat ∧
      ∀ t : TowerIx, (12#8).toNat ≠ t.val := by
  refine ⟨by decide +kernel, by decide, by unfold State.Permits; decide +kernel, by decide +kernel, ?_, by decide +kernel, by decide +kernel,
    by decide +kernel, by decide +kernel, by decide, by decide, by decide, by decide, by decide, by decide, by decide⟩
  have : (site (plainTower .dark)).tower 1 = plainTower .dark := by decide +kernel
  exact this ▸ plain_queue .dark

/-- A HELD tower with a key QUEUED, its RUN slot COMPLETE: a mirrored flag comes as a change, and so does a clear. -/
theorem premises_SlotClearAndTagSet_held :
    (busyTower .held).QueueSound ∧ (busyTower .held).state = .held ∧ (busyTower .held).keys.length = (busyTower .held).z ∧
      (busyTower .held).run.complete = true ∧ (busyTower .held).run.mirrored ≠ decide ((1#8).toNat = 1) ∧
      (State.reset.curve ((busyTower .held).curveOf 15)).length < 2 :=
  ⟨busy_queue _ (by decide), rfl, by decide +kernel, by decide +kernel, by decide, by decide +kernel⟩

/-- A curve of n points. -/
def pointsUpTo (n : Nat) : List Point := (List.range n).map fun i => { coverage := 10 * i, opening := i }

/-- A machine with curve 5 of n points and the plate cursor on it. -/
def onCurve (n index : Nat) (phase : CursorPhase) : State :=
  curveSite (pointsUpTo n) { curve := 5, index := index, phase := phase, lastOp := .none }

theorem onCurve_full : (onCurve 12 11 (.half 1000)).CurvesSound := by
  refine ⟨by unfold CurveSound; decide +kernel, fun p => ?_⟩
  cases p
  · exact ⟨by decide +kernel, trivial⟩
  · exact ⟨by decide +kernel, show 1000 ≤ 1000 by decide⟩
  · exact ⟨by decide +kernel, trivial⟩

theorem onCurve_even : (onCurve 0 12 .even).CurvesSound := by
  refine ⟨by unfold CurveSound; decide +kernel, fun p => ?_⟩
  cases p <;> exact ⟨by decide +kernel, trivial⟩

theorem premises_CurveSelectAndGet :
    (onCurve 12 11 (.half 1000)).busy .plate = false ∧ (15#8).toNat = (15 : CurveIx).val ∧ (12#8).toNat ≤ 12 ∧
      ((onCurve 12 11 (.half 1000)).curve 5).length ≤ 12 ∧ 16 ≤ (16#8).toNat ∧ 12 < (13#8).toNat ∧ 1 ≤ (1#8).toNat ∧
      (0#8).toNat = 0 ∧ (onCurve 12 11 (.half 1000)).CurvesSound :=
  ⟨by decide +kernel, by decide, by decide, by decide +kernel, by decide, by decide, by decide, by decide, onCurve_full⟩

theorem premises_CurvePutTakesOneWord :
    MasterPort.plate ≠ .scanner ∧ (onCurve 12 11 (.half 1000)).busy .plate = false ∧
      (onCurve 12 11 (.half 1000)).Permits .plate 12 ∧ 65535 < 65536 ∧ 1000 < 1001 ∧
      (onCurve 12 11 (.half 1000)).CurvesSound ∧ (onCurve 0 12 .even).CurvesSound ∧
      ((onCurve 0 12 .even).port .plate).cursor.phase = .even ∧
      ((onCurve 12 11 (.half 1000)).port .plate).cursor.phase = .half 1000 := by
  refine ⟨?_, ?_, ?_, ?_, ?_, onCurve_full, onCurve_even, ?_, ?_⟩ <;> first | decide +kernel | (unfold State.Permits; decide +kernel)

/-- The last point replaced: no condition of R49 fails it. -/
theorem premises_CurvePutTakesOneWord_commits : ∃ q, (pointsUpTo 12)[10]? = some q ∧ q.coverage < 1000 ∧
    (pointsUpTo 12)[12]? = none ∧ (pointsUpTo 12).length = 12 := ⟨⟨100, 10⟩, by decide +kernel⟩

/-- A held coverage equal to the next point's fails, and so does an index past the count. -/
theorem premises_CurvePutTakesOneWord_fails : ∃ q, (pointsUpTo 3)[2]? = some q ∧ q.coverage ≤ 20 ∧
    (pointsUpTo 3).length < 4 := ⟨⟨20, 2⟩, by decide +kernel⟩

theorem premises_CurvePutTakesWordsInOrder :
    let s := onCurve 0 0 .even
    MasterPort.plate ≠ .scanner ∧ s.busy .plate = false ∧ s.Permits .plate 12 ∧ 1 ≤ (List.replicate 61 0).length ∧
      1 ≤ [65535].length ∧ (List.replicate 61 0).length + [65535].length ≤ 62 ∧
      ∀ w ∈ List.replicate 61 0 ++ [65535], w < 65536 := by
  unfold State.Permits; decide +kernel

theorem premises_CurveClearEmptiesCurve :
    (onCurve 12 11 (.half 1000)).busy .plate = false ∧ (onCurve 12 11 (.half 1000)).Permits .plate 12 ∧
      (5#8).toNat = (5 : CurveIx).val ∧ (onCurve 12 11 (.half 1000)).CurvesSound ∧ 16 ≤ (16#8).toNat :=
  ⟨by decide +kernel, by unfold State.Permits; decide +kernel, by decide, onCurve_full, by decide⟩

/-- The towers of a CURVE CLEAR of curve 0: one PRINTING with its targets sound and every key on the cleared side, one without a
COMPLETE RUN slot, and one that names the curve for no key. -/
theorem premises_CurveClearEmptiesCurve_towers :
    (plainTower .printing).keys.length = (plainTower .printing).z ∧ (plainTower .printing).run.complete = true ∧
      (plainTower .printing).config.Sound ∧ (plainTower .printing).TargetsSound ∧
      (plainTower .printing).config.metering.curveA = 0 ∧ 15 < (plainTower .printing).config.metering.split ∧
      Tower.powerOn.run.complete = false ∧ (∀ key ∈ Tower.powerOn.keys, key.target = none ∧ key.effective = none) ∧
      Tower.powerOn.config.metering.curveA ≠ 5 ∧ Tower.powerOn.config.metering.curveB ≠ 5 := by
  unfold TowerConfig.Sound Tower.TargetsSound; decide +kernel

theorem premises_ZoneMapping :
    15 < (plainTower .dark).z ∧
      (plainTower .dark).run.coverage[(plainTower .dark).zoneOf 15]? = some (some 500) := by decide +kernel

/-- A curve that rises and falls, as in R60. -/
def bentCurve : List Point := [⟨150, 90⟩, ⟨300, 250⟩, ⟨600, 500⟩, ⟨800, 470⟩]

theorem premises_EffectiveCoverageAndLookup :
    (plainTower .dark).config.Sound ∧ (plainTower .dark).run.Sound (plainTower .dark).z ∧ 15 < (plainTower .dark).z ∧
      CurveSound bentCurve ∧ 2 ≤ bentCurve.length ∧ bentCurve[0]? = some ⟨150, 90⟩ ∧ 149 < 150 ∧
      bentCurve[bentCurve.length - 1]? = some ⟨800, 470⟩ ∧ 800 ≤ 800 ∧ bentCurve[1]? = some ⟨300, 250⟩ ∧
      bentCurve[1 + 1]? = some ⟨600, 500⟩ ∧ 300 ≤ 300 ∧ 599 < 600 ∧ 250 ≤ 500 ∧ bentCurve[2 + 1]? = some ⟨800, 470⟩ ∧
      470 < 500 := by
  unfold TowerConfig.Sound Slot.Sound CurveSound; decide +kernel

/-- A DARK tower whose RUN slot is EMPTY. -/
def emptyTower : Tower :=
  { plainTower .dark with
    run := Slot.emptied 16
    keys := List.replicate 16 { restingKey with target := none, effective := none }
    sweep := none }

theorem premises_CompletingRunPresets :
    let s := plateSite emptyTower .run none .down
    let c := (s.port .plate).ctx
    s.busy .plate = false ∧ s.Permits .plate c.tower.val ∧ c.slot = .run ∧ c.mode = .replace ∧ c.first = 0 ∧
      c.last = (s.tower c.tower).z - 1 ∧ (∀ z, z < (s.tower c.tower).z → c.mask.getLsbD z = true) ∧
      (s.tower c.tower).state = .dark ∧ (s.tower c.tower).run.complete = false ∧ (s.tower c.tower).ShapeSound ∧
      (∀ k, k < 16 → 2 ≤ (s.curve 0).length) := by
  unfold State.Permits Tower.ShapeSound Slot.Sound TowerConfig.Sound; decide +kernel

theorem premises_CompletingRunPresets_queue : emptyTower.QueueSound := Tower.queueSound_of_check (by decide +kernel)

theorem premises_CompletingRunPresets_held : (State.reset.curve 0).length < 2 := by decide +kernel

theorem premises_TrimsAreTakenInOrder :
    let s := site (plainTower .printing)
    s.busy .console = false ∧ (1#8).toNat = (1 : TowerIx).val ∧ 12 ≤ (12#8).toNat ∧
      (List.replicate 48 ((15#8 : Byte), (-32768 : Int))).length ≤ 48 ∧ -32768 ≤ (-32768 : Int) ∧
      (s.tower 1).keys.length = (s.tower 1).z ∧ (∀ key ∈ (s.tower 1).keys, key.CorrectionsSound) ∧
      (15#8).toNat < (s.tower 1).z ∧ (s.tower 1).z ≤ (16#8).toNat := by
  unfold KeyRec.CorrectionsSound; decide +kernel

theorem premises_TrimsAreTakenInOrder_length : LayoutLength .trimSet 145 ∧ LayoutLength .trimNudge 97 :=
  ⟨⟨48, by decide⟩, ⟨48, by decide⟩⟩

theorem premises_TrimReachesTarget :
    ∀ s ∈ [site (plainTower .dark), State.reset.setTower 1 (plainTower .dark)],
      s.busy .console = false ∧ (15#8).toNat < (s.tower 1).z ∧ (s.tower 1).keys[(15#8).toNat]? = some restingKey ∧
        (-300 : Int) ≠ restingKey.trim ∧ (0 : Int) = restingKey.trim ∧ (s.tower 1).state = .dark ∧
        restingKey.drive.state ≠ .queued ∧ (s.tower 1).run.complete = true := by decide +kernel

theorem premises_TrimReachesTarget_curves :
    2 ≤ ((site (plainTower .dark)).curve 0).length ∧
      ((State.reset.setTower 1 (plainTower .dark)).curve 0).length < 2 := by decide +kernel

theorem premises_MeasureIsGatedAndCounted :
    ∀ st ∈ [TowerState.dark, .presetting, .held, .printing],
      let s := site (plainTower st)
      s.busy .scanner = false ∧ (1#8).toNat = (1 : TowerIx).val ∧
        (portRank .scanner ≤ s.access.trust ∨ (s.access.denyMap .scanner).getLsbD 1 = false) ∧
        (s.tower 1).keys.length = (s.tower 1).z ∧
        (s.sheets.toNat + 2 ^ 32 - (0#32).toNat) % 2 ^ 32 < 2 ^ 31 ∧
        2 ^ 31 ≤ (s.sheets.toNat + 2 ^ 32 - (1#32).toNat) % 2 ^ 32 ∧
        (s.sheets.toNat + 2 ^ 32 - (0x80000001#32).toNat) % 2 ^ 32 < 2 ^ 31 ∧
        ((s.tower 1).counters.applied ≤ 65535 ∧ (s.tower 1).counters.settleSkipped ≤ 65535 ∧
          (s.tower 1).counters.deadbandSkipped ≤ 65535 ∧ (s.tower 1).counters.stateSkipped ≤ 65535) ∧
        12 ≤ (12#8).toNat ∧ (s.tower 1).z ≤ (16#8).toNat ∧ (15#8).toNat < (s.tower 1).z := by decide +kernel

/-- The classes of one entry: a MOVING key, an IDLE key before its window, a deviation at the deadband, and past it. -/
theorem premises_MeasureIsGatedAndCounted_classes :
    (busyTower .printing).keys[0]?.map (fun key => key.drive.state) = some .moving ∧ restingKey.drive.state = .idle ∧
      2 ^ 31 ≤ ((0x80000001#32).toNat + 2 ^ 32 - restingKey.settleUntil.toNat) % 2 ^ 32 ∧
      ((0#32).toNat + 2 ^ 32 - restingKey.settleUntil.toNat) % 2 ^ 32 < 2 ^ 31 ∧
      (20 : Int).natAbs ≤ (plainTower .printing).config.loop.deadband ∧
      (plainTower .printing).config.loop.deadband < (21 : Int).natAbs ∧ (plainTower .printing).config.loop.enable = true ∧
      max (-200) (min 200 ((-200 : Int) + correctionOf (plainTower .printing).config.loop 21)) = -200 := by decide +kernel

/-- 48 entries over two messages, keys 0 and 15, at the ends of the deviation field. -/
theorem premises_MeasureIsGatedAndCounted_order :
    1 ≤ (List.replicate 47 ((0#8 : Byte), (-32768 : Int))).length ∧ 1 ≤ [((15#8 : Byte), (32767 : Int))].length ∧
      (List.replicate 47 ((0#8 : Byte), (-32768 : Int))).length + [((15#8 : Byte), (32767 : Int))].length ≤ 48 ∧
      ∀ e ∈ List.replicate 47 ((0#8 : Byte), (-32768 : Int)) ++ [((15#8 : Byte), (32767 : Int))],
        -32768 ≤ e.2 ∧ e.2 ≤ 32767 ∧ e.1.toNat < ((site (plainTower .printing)).tower 1).z := by decide +kernel

/-- A MEASURE of -1000 opens key 15 by the step limit: it moves while a slot is free, waits while none is, and stays where the
opening limit absorbs the change. -/
theorem premises_MeasureMovesKey :
    ∀ tw ∈ [plainTower .printing, { plainTower .printing with moving := 1 },
        { plainTower .printing with config := { (plainTower .printing).config with
            metering := { (plainTower .printing).config.metering with maxOpen := 500 } } }],
      let s := site tw
      let k := (15#8 : Byte).toNat
      let key := restingKey
      s.busy .plate = false ∧ (portRank .plate ≤ s.access.trust ∨ (s.access.denyMap .plate).getLsbD 1 = false) ∧
        k < (s.tower 1).z ∧ (s.tower 1).keys[k]? = some key ∧ key.drive = .idle 500 ∧
        key.target.map Target.steps = some 500 ∧ (s.tower 1).state = .printing ∧ (s.tower 1).config.loop.enable = true ∧
        (s.tower 1).run.complete = true ∧ 2 ≤ (s.curve 0).length ∧
        (s.sheets.toNat + 2 ^ 32 - (0#32).toNat) % 2 ^ 32 < 2 ^ 31 ∧
        ((0#32).toNat + 2 ^ 32 - key.settleUntil.toNat) % 2 ^ 32 < 2 ^ 31 ∧
        (s.tower 1).config.loop.deadband < (-1000 : Int).natAbs ∧
        max (-200) (min 200 (key.acc + correctionOf (s.tower 1).config.loop (-1000))) ≠ key.acc := by decide +kernel

theorem premises_MeasureMovesKey_slots :
    (plainTower .printing).queue = [] ∧ (plainTower .printing).moving < (plainTower .printing).config.drive.concurrency ∧
      (plainTower .printing).config.drive.concurrency ≤ 1 ∧
      (targetOf (plainTower .printing).config (openingFor (plainTower .printing).config.metering 500
        (openingAt [⟨0, 0⟩, ⟨1000, 1000⟩] 500) 0 10)).steps ≠ 500 := by decide +kernel

/-- The plain tower's record with these geometry, metering and concurrency values. -/
def record (z scale concurrency : Nat) : TowerConfig :=
  { (plainTower .dark).config with
    geometry := { z := z, f := 4000, reversed := true }
    metering := { (plainTower .dark).config.metering with scale := scale, split := 16 }
    drive := { (plainTower .dark).config.drive with concurrency := concurrency } }

theorem record_fields : ConfigFields (configBytes (record 48 255 8)) (record 48 255 8) ∧
    ConfigFields (configBytes (record 15 50 1)) (record 15 50 1) := by
  unfold ConfigFields
  simp only [field8_iff, field16_iff]
  repeat' apply And.intro
  all_goals decide +kernel

theorem record_inTable : (record 48 255 8).InTable ∧ ¬(record 15 50 1).InTable := by
  unfold TowerConfig.InTable; decide +kernel

theorem premises_ConfigSetIsChecked :
    (site (busyTower .dark)).busy .console = false ∧ (configBytes (record 48 255 8)).length = 29 ∧ 12 ≤ (12#8).toNat ∧
      (¬∃ c : TowerConfig, ConfigFields (List.replicate 29 2#8) c) ∧
      ConfigFields (configBytes (record 48 255 8)) (record 48 255 8) ∧ (record 48 255 8).InTable ∧
      ¬(record 15 50 1).InTable ∧ (1#8).toNat = (1 : TowerIx).val ∧
      (record 48 255 8).geometry ≠ ((site (plainTower .held)).tower 1).config.geometry ∧
      (∃ key ∈ ((site (busyTower .dark)).tower 1).keys, key.drive.state = .moving) ∧
      (∀ key ∈ ((site (plainTower .dark)).tower 1).keys, key.drive.state ≠ .moving) := by
  refine ⟨by decide +kernel, by decide +kernel, by decide, ?_, record_fields.1, record_inTable.1, record_inTable.2, by decide,
    by decide +kernel, by decide +kernel, by decide +kernel⟩
  rintro ⟨c, h⟩
  have := (field8_iff _ _ _).mp h.2.2.2.1
  cases hr : c.geometry.reversed <;> simp [hr] at this

theorem premises_ConfigChangeRefreshesOrReshapes :
    (site (plainTower .dark)).busy .console = false ∧
      ConfigFields (configBytes (record 48 255 8)) (record 48 255 8) ∧ (record 48 255 8).InTable ∧
      (plainTower .dark).ShapeSound ∧ (plainTower .dark).QueueSound ∧ (plainTower .dark).state = .dark ∧
      (∀ key ∈ (plainTower .dark).keys, key.drive.state ≠ .moving) ∧ (record 48 255 8).geometry.z ≠ (plainTower .dark).z :=
  ⟨by decide +kernel, record_fields.1, record_inTable.1, plain_shape _, plain_queue _, rfl, by decide +kernel,
    by decide +kernel⟩

/-- The same tower PRINTING, with a record that keeps its geometry and concurrency and lowers its upper opening limit. -/
theorem premises_ConfigChangeRefreshesOrReshapes_kept :
    let c := { (plainTower .printing).config with
      metering := { (plainTower .printing).config.metering with maxOpen := 500 } }
    ConfigFields (configBytes c) c ∧ c.InTable ∧ (plainTower .printing).ShapeSound ∧ (plainTower .printing).QueueSound ∧
      c.geometry = (plainTower .printing).config.geometry ∧
      c.drive.concurrency = (plainTower .printing).config.drive.concurrency ∧ c.geometry.z = (plainTower .printing).z ∧
      c.taken.metering ≠ (plainTower .printing).config.metering := by
  refine ⟨?_, by unfold TowerConfig.InTable; decide +kernel, plain_shape _, plain_queue _, rfl, rfl, rfl, by decide +kernel⟩
  unfold ConfigFields
  simp only [field8_iff, field16_iff]
  repeat' apply And.intro
  all_goals decide +kernel

theorem premises_DispatchSendsHeads :
    (busyTower .printing).QueueSound ∧ (plainTower .held).QueueSound ∧ (busyTower .printing).state = .printing ∧
      (plainTower .held).state = .held ∧ (busyTower .printing).moving ≤ (busyTower .printing).config.drive.concurrency :=
  ⟨busy_queue _ (by decide), plain_queue _, rfl, rfl, by decide +kernel⟩

theorem premises_TargetAndSweepChangesAreTaken :
    (busyTower .printing).keys[1]? = some { restingKey with drive := .queued 400 } ∧
      (busyTower .printing).keys[0]?.map (fun key => key.drive.state) = some .moving ∧
      (plainTower .dark).keys[15]? = some restingKey ∧ restingKey.target.map Target.steps = some 500 ∧ 500 ≠ 499 ∧
      emptyTower.keys[0]?.map KeyRec.target = some none ∧
      DriveState.moving ∈ [DriveState.unknown, .moving, .faulted] := by decide +kernel

theorem premises_EngagePresetsTower :
    (site (plainTower .dark)).busy .console = false ∧ 12 ≤ (12#8).toNat ∧
      ((site (plainTower .held)).tower 1).state ≠ .dark ∧ ((site emptyTower).tower 1).run.complete = false ∧
      ((site emptyTower).tower 1).state = .dark ∧ ((site (plainTower .dark)).tower 1).run.complete = true ∧
      (¬∃ key ∈ ((site (plainTower .dark)).tower 1).keys, key.drive = .unknown) ∧
      (∃ key ∈ (State.reset.tower 1).keys, key.drive = .unknown) ∧
      ((site (plainTower .dark)).tower 1).keys.length = ((site (plainTower .dark)).tower 1).z := by decide +kernel

theorem premises_EngagePresetsTower_queue : (plainTower .dark).QueueSound := plain_queue _

theorem premises_DisengageEmptiesQueue :
    (site (busyTower .printing)).busy .console = false ∧ (1#8).toNat = (1 : TowerIx).val ∧ (busyTower .printing).QueueSound ∧
      (site (busyTower .printing)).tower 1 = busyTower .printing ∧ 12 ≤ (12#8).toNat :=
  ⟨by decide +kernel, by decide, busy_queue _ (by decide), by decide +kernel, by decide⟩

theorem premises_JobChangeBringsPlateIn :
    12 ≤ (12#8).toNat ∧ 2 ≤ (2#8).toNat ∧ (site (plainTower .dark)).busy .console = false ∧ (1#8).toNat ≤ 1 ∧
      (plainTower .presetting).state = .presetting ∧ (plainTower .held).state ≠ .presetting ∧
      (Tower.powerOn).next.complete = false ∧ (plainTower .printing).next.complete = true ∧
      (∃ key ∈ Tower.powerOn.keys, key.drive = .unknown) ∧
      (¬∃ key ∈ (plainTower .dark).keys, key.drive = .unknown) ∧ (plainTower .printing).ShapeSound ∧
      (busyTower .printing).QueueSound ∧ (busyTower .printing).DispatchSound :=
  ⟨by decide, by decide, by decide +kernel, by decide, rfl, by decide, by decide +kernel, by decide +kernel,
    by decide +kernel, by decide +kernel, plain_shape _, busy_queue _ (by decide), by unfold Tower.DispatchSound; decide +kernel⟩

/-- HELD with a key QUEUED, and PRINTING with a free motor slot. -/
theorem premises_JobChangeBringsPlateIn_queue :
    (busyTower .held).QueueSound ∧ (busyTower .held).DispatchSound ∧ (busyTower .held).ShapeSound ∧
      (busyTower .held).next.complete = true ∧ (plainTower .printing).DispatchSound ∧
      (plainTower .printing).moving < (plainTower .printing).config.drive.concurrency :=
  ⟨busy_queue _ (by decide), by unfold Tower.DispatchSound; decide +kernel,
    by unfold Tower.ShapeSound Slot.Sound TowerConfig.Sound; decide +kernel, by decide +kernel,
    by unfold Tower.DispatchSound; decide +kernel, by decide +kernel⟩

theorem premises_HoldAndRelease :
    (∀ st : TowerState, (site (plainTower st)).busy .console = false) ∧ 12 ≤ (12#8).toNat ∧
      (site { plainTower .held with run := Slot.emptied 16 }).busy .console = false ∧
      (Slot.emptied 16).complete = false ∧ (plainTower .held).run.complete = true ∧ (busyTower .held).QueueSound :=
  ⟨fun st => by cases st <;> decide +kernel, by decide, by decide +kernel, by decide +kernel, by decide +kernel,
    busy_queue _ (by decide)⟩

/-- A DONE two steps off is within the tolerance of 2, three steps off is not; at 500 the key is at its target. -/
theorem premises_DoneEndsMove :
    (busyTower .printing).keys[(0#8 : Byte).toNat]? = some { restingKey with drive := .moving 400 500 3000 } ∧
      (busyTower .printing).QueueSound ∧ (busyTower .printing).config.drive.tolerance = 2 ∧
      (∃ g, restingKey.target = some g ∧ g.steps ≠ 498) ∧ ¬∃ g, restingKey.target = some g ∧ g.steps ≠ 500 :=
  ⟨by decide +kernel, busy_queue _ (by decide), rfl, ⟨_, rfl, by decide⟩, fun ⟨g, h, h'⟩ => by
    injection h with h; subst h; exact h' rfl⟩

theorem premises_FaultReportStopsKey :
    (busyTower .printing).QueueSound ∧ ((busyTower .printing).keys.map fun key => key.drive.state).take 3 =
      [.moving, .queued, .idle] :=
  ⟨busy_queue _ (by decide), by decide +kernel⟩

theorem premises_PositionReportsAreTaken :
    (busyTower .printing).keys.length = (busyTower .printing).z ∧ (busyTower .printing).z ≤ (16#8 : Byte).toNat ∧
      (busyTower .printing).QueueSound ∧
      ((busyTower .printing).keys.map KeyRec.drive).take 3 = [.moving 400 500 3000, .queued 400, .idle 500] ∧
      restingKey.target.map Target.steps = some 500 ∧ restingKey.target.map Target.steps ≠ some 499 ∧
      (plainTower .dark).QueueSound :=
  ⟨by decide +kernel, by decide +kernel, busy_queue _ (by decide), by decide +kernel, by decide +kernel, by decide +kernel,
    plain_queue _⟩

/-- A FAULTED key, by TIMEOUT and by another kind, in a tower with an empty queue. -/
theorem premises_PositionReportsAreTaken_faulted :
    ∀ kind ∈ [KeyFault.timeout, .stall],
      let tw := { plainTower .printing with
        keys := { restingKey with drive := .faulted kind (some 621) } :: List.replicate 15 restingKey }
      tw.QueueSound ∧ tw.keys[(0#8 : Byte).toNat]? = some { restingKey with drive := .faulted kind (some 621) } := by
  intro kind hk
  refine ⟨Tower.queueSound_of_check ?_, rfl⟩
  revert kind
  decide +kernel

theorem premises_TimersExpire :
    (busyTower .held).QueueSound ∧ (busyTower .held).keys[0]? = some { restingKey with drive := .moving 400 500 3000 } ∧
      (State.reset.tower 11).keys[31]?.map KeyRec.drive = some .unknown ∧ (State.reset.tower 11).keys[32]? = none :=
  ⟨busy_queue _ (by decide), by decide +kernel, by decide +kernel, by decide +kernel⟩

theorem premises_ClearKeyFaultSurveys :
    (site (plainTower .held)).busy .console = false ∧ (1#8).toNat = (1 : TowerIx).val ∧
      ((site (plainTower .held)).tower 1).z ≤ 48 ∧ (15#8 : Byte).toNat < ((site (plainTower .held)).tower 1).z ∧
      12 ≤ (12#8 : Byte).toNat ∧ ((site (plainTower .held)).tower 1).z ≤ (16#8 : Byte).toNat ∧ (16#8 : Byte) ≠ 0xFF#8 := by
  decide +kernel

theorem premises_AccessSetTakesMaps :
    State.reset.busy .console = false ∧ (2#8 : Byte).toNat ≤ 2 ∧ (31#8 : Byte).toNat < 32 ∧ 2 < (3#8 : Byte).toNat ∧
      32 ≤ (32#8 : Byte).toNat := by decide +kernel

theorem premises_RestartTakesEffect :
    let s := { (site (busyTower .printing)).sendReply .console [0xBA#8, 0#8] with restartPending := true }
    State.reset.busy .console = false ∧ State.reset.restartPending = false ∧ s.restartPending = true ∧
      s.busy .console = true ∧ ∀ t : TowerIx, (s.tower t).keys.length = (s.tower t).z := by decide +kernel

/-- A machine in the middle of its work: tower 1 PRINTING with a key MOVING and one QUEUED, a report waiting. -/
def working : State :=
  { site { busyTower .printing with sweep := some 50, lastSweep := some 50 } with pending := [.done 1 0 500#16] }

theorem working_steps : ∃ u, step working = .next u := ⟨_, rfl⟩

theorem working_geometry : working.GeometrySound := by
  refine ⟨by unfold Tower.ShapeSound Slot.Sound TowerConfig.Sound; decide +kernel, fun p => ?_⟩
  unfold WriteContext.Sound
  cases p <;> decide +kernel

theorem premises_EveryStepKeepsGeometry : working.GeometrySound ∧ ∃ u, step working = .next u :=
  ⟨working_geometry, working_steps⟩

theorem premises_EveryStepKeepsCurvesAndFaults :
    (onCurve 12 11 (.half 1000)).CurvesSound ∧ (faulty 32 true).faults.Sound ∧ ∃ u, step (faulty 32 true) = .next u :=
  ⟨onCurve_full, premises_FaultsTakeReturnsOldestFirst.2.2.2.1, ⟨_, rfl⟩⟩

theorem premises_EveryStepKeepsQueues :
    working.GeometrySound ∧ working.QueueSound ∧ working.MovingSound ∧ working.DispatchSound ∧
      ∃ u, step working = .next u :=
  ⟨working_geometry, fun t => Tower.queueSound_of_check ((by decide +kernel :
      ∀ t : TowerIx, (working.tower t).queueCheck = true) t),
    by unfold State.MovingSound Tower.MovingSound; decide +kernel,
    by unfold State.DispatchSound Tower.DispatchSound; decide +kernel, working_steps⟩

theorem premises_EveryStepKeepsQueues_presetting : (busyTower .presetting).PresettingSound ∧
    (busyTower .presetting).state = .presetting ∧ working.PresettingSound :=
  ⟨by unfold Tower.PresettingSound; decide +kernel, rfl,
    by unfold State.PresettingSound Tower.PresettingSound; decide +kernel⟩

theorem premises_EveryStepKeepsTargetsAndRanges :
    working.GeometrySound ∧ working.TargetsSound ∧ working.RangesSound ∧ ∃ u, step working = .next u := by
  refine ⟨working_geometry, by unfold State.TargetsSound Tower.TargetsSound TowerConfig.Sound; decide +kernel,
    ⟨?_, ?_, by decide +kernel⟩, working_steps⟩
  · unfold Tower.RangesSound LoopCounters.Sound KeyRec.CorrectionsSound; decide +kernel
  · have : working.faults.records = [] := by decide +kernel
    rw [this]
    intro r hr
    cases hr

theorem premises_EveryStepKeepsPresetsCurrent :
    working.GeometrySound ∧ working.PresetsCurrent ∧ working.RunningSound ∧ ∃ u, step working = .next u :=
  ⟨working_geometry, fun t => Tower.presetsCurrent_of_check ((by decide +kernel :
      ∀ t : TowerIx, (working.tower t).presetsCheck working.curves = true) t),
    by unfold State.RunningSound; decide +kernel, working_steps⟩

theorem premises_EveryStepKeepsLinks : working.LinksSound ∧ ∃ u, step working = .next u := by
  refine ⟨⟨fun p => ?_, by decide +kernel⟩, working_steps⟩
  cases p <;> decide +kernel

end Sys2Proof.Tests
end

/-! SUPPORT. The zone mapping (R4), and the configuration record read by CONFIG GET and sent back by CONFIG SET (R17). -/

namespace Sys2Proof.Machine

/-! ### Keys and zones (R4) -/

theorem Tower.zoneOf_eq (tw : Tower) (k : Nat) :
    tw.zoneOf k = if xor tw.run.mirrored tw.config.geometry.reversed = true then tw.z - 1 - k else k := rfl

theorem Tower.zoneOf_lt {tw : Tower} {k : Nat} (h : k < tw.z) : tw.zoneOf k < tw.z := by
  rw [Tower.zoneOf_eq]
  split <;> omega

/-- The mapping is its own inverse. -/
theorem Tower.zoneOf_zoneOf {tw : Tower} {k : Nat} (h : k < tw.z) : tw.zoneOf (tw.zoneOf k) = k := by
  simp only [Tower.zoneOf_eq]
  split <;> omega

theorem Tower.existsUnique_zoneOf {tw : Tower} {z : Nat} (h : z < tw.z) :
    ∃ k, (k < tw.z ∧ tw.zoneOf k = z) ∧ ∀ k', k' < tw.z → tw.zoneOf k' = z → k' = k := by
  refine ⟨tw.zoneOf z, ⟨Tower.zoneOf_lt h, Tower.zoneOf_zoneOf h⟩, fun k' hk' hz => ?_⟩
  rw [← hz, Tower.zoneOf_zoneOf hk']

theorem Slot.zone_of_written {sl : Slot} {z v : Nat} (h : sl.coverage[z]? = some (some v)) : sl.zone z = some v := by
  simp [Slot.zone, h]

theorem Tower.coverageUnder_of_written {tw : Tower} {k v : Nat}
    (h : tw.run.coverage[tw.zoneOf k]? = some (some v)) : tw.coverageUnder k = v := by
  rw [Tower.coverageUnder, Slot.zone_of_written h, Option.getD_some]

/-! ### Fields of a body, written and read back (R172, R173) -/

theorem byteOf_toNat {n : Nat} (h : n < 256) : (byteOf n).toNat = n := Nat.mod_eq_of_lt h

@[simp] theorem readFlag_flagByte (b : Bool) : readFlag (flagByte b) = some b := by cases b <;> rfl

@[simp] theorem readCurve_byteOf (c : CurveIx) : readCurve (byteOf c.val) = some c := by
  have hc : (byteOf c.val).toNat = c.val := byteOf_toNat (by omega)
  simp [readCurve, hc]

theorem readTower_of_toNat {b : Byte} {t : TowerIx} (h : b.toNat = t.val) : readTower b = some t := by
  simp [readTower, h]

theorem readTower_none {b : Byte} (h : 12 ≤ b.toNat) : readTower b = none := by
  simp [readTower, h]

/-- The first byte of a 16-bit field has the weight 256. -/
theorem be16_eq (a b : Byte) : be16 a b = a.toNat * 256 + b.toNat := by
  rw [be16, BitVec.toNat_append, Nat.shiftLeft_eq, Nat.mul_comm, ← Nat.two_pow_add_eq_or_of_lt b.isLt, Nat.mul_comm]

theorem be16_bytes {n : Nat} (h : n < 65536) : be16 (BitVec.ofNat 8 (n / 256)) (BitVec.ofNat 8 n) = n := by
  simp only [be16_eq, BitVec.toNat_ofNat]
  omega

/-! ### The configuration record (R6, R12, R176) -/

/-- The range check of CONFIG SET is the table of R6. -/
theorem TowerConfig.inRange_iff (c : TowerConfig) : c.inRange = true ↔ c.InTable := by
  simp only [TowerConfig.inRange, TowerConfig.InTable, Bool.and_eq_true, decide_eq_true_eq, and_assoc]

/-- A scale within 50..150 is not clamped (R12). -/
theorem TowerConfig.Sound.clampScale_eq {c : TowerConfig} (h : c.Sound) : c.clampScale = c := by
  obtain ⟨-, hlo, hhi⟩ := h
  have hscale : max 50 (min 150 c.metering.scale) = c.metering.scale := by omega
  rw [TowerConfig.clampScale, hscale]

@[simp] theorem configBytes_length (c : TowerConfig) : (configBytes c).length = 29 := rfl

/-- Every field of a sound record fits its bytes, so the record is read back as it was sent (R17). -/
theorem TowerConfig.Sound.readConfig_configBytes {c : TowerConfig} (h : c.Sound) :
    readConfig (configBytes c) = some c := by
  obtain ⟨hrange, -, hscale⟩ := h
  obtain ⟨⟨-, hz⟩, ⟨-, hf⟩, hsplit, ⟨-, hw0⟩, hw1, hw2, hmin, ⟨-, hmax⟩, hbase, hsweep, ⟨-, hc⟩, hsettle, ⟨-, htimeout⟩,
    htolerance, hgain, hdeadband, -, hstep⟩ := c.inRange_iff.mp hrange
  simp (disch := omega) [configBytes, bytes16, readConfig, byteOf_toNat, be16_bytes]

/-! ### CONFIG GET and CONFIG SET (R13, R17) -/

/-- CONFIG GET with its one byte is permitted on every link, whatever the trust level and the deny maps (R152, R154, R17). -/
theorem State.earlyRefusal_configGet (s : State) (p : MasterPort) (b : Byte) : s.earlyRefusal p .configGet [b] = none := by
  have hrank : ¬requiredRank .configGet < portRank p := by cases p <;> decide
  simp [State.earlyRefusal, hrank, lengthFits, State.accessMember, State.denies]

/-- CONFIG SET of a whole record is permitted on the console. -/
theorem State.earlyRefusal_configSet (s : State) {args : List Byte} (h : args.length = 30) :
    s.earlyRefusal .console .configSet args = none := by
  simp [State.earlyRefusal, requiredRank, portRank, lengthFits, State.accessMember, State.denies, h]

/-- A tower's own record changes no geometry and no concurrency, so every tower state takes it (R13). -/
theorem Tower.allowsConfig_self (tw : Tower) : tw.allowsConfig tw.config = true := by
  simp [Tower.allowsConfig]

/-- A tower's own record reshapes and refreshes nothing (R14, R15). -/
theorem State.configure_self (s : State) (t : TowerIx) : s.configure t (s.tower t).config = s := by
  simp only [State.configure, Tower.z, and_self, if_true]
  exact s.setTower_self t

theorem takeConfigGet_of_tower (p : MasterPort) {b : Byte} {t : TowerIx} (s : State) (h : b.toNat = t.val) :
    takeConfigGet p [b] s = .ok (s, .ok, b :: configBytes (s.tower t).config) := by
  simp [takeConfigGet, readTower_of_toNat h]

theorem takeConfigGet_of_range (p : MasterPort) {b : Byte} (s : State) (h : 12 ≤ b.toNat) :
    takeConfigGet p [b] s = .error .range := by
  simp [takeConfigGet, readTower_none h]

/-- A tower's own record passes steps 6 to 8 with OK and leaves the state as it was (R17). -/
theorem takeConfigSet_self (p : MasterPort) {b : Byte} {t : TowerIx} {s : State} (h : b.toNat = t.val)
    (hsound : (s.tower t).config.Sound) :
    takeConfigSet p (b :: configBytes (s.tower t).config) s = .ok (s, .ok, []) := by
  simp [takeConfigSet, readTower_of_toNat h, hsound.readConfig_configBytes, hsound.1, hsound.clampScale_eq,
    Tower.allowsConfig_self, State.configure_self, clampResult]

theorem exec_configGet (p : MasterPort) (args : List Byte) (s : State) :
    exec (.configGet p args) s = .next (s.takeRequest p .configGet args takeConfigGet) := rfl

theorem exec_configSet (p : MasterPort) (args : List Byte) (s : State) :
    exec (.configSet p args) s = .next (s.takeRequest p .configSet args takeConfigSet) := rfl

theorem exec_configGet_of_tower {p : MasterPort} {b : Byte} {t : TowerIx} {s : State} (hb : b.toNat = t.val)
    (hfree : s.busy p = false) :
    exec (.configGet p [b]) s = .next (s.sendReply p (0x85#8 :: 0x00#8 :: b :: configBytes (s.tower t).config)) := by
  rw [exec_configGet, State.takeRequest_ok hfree (s.earlyRefusal_configGet p b) (takeConfigGet_of_tower p s hb)]
  rfl

theorem exec_configGet_of_range {p : MasterPort} {b : Byte} {s : State} (hb : 12 ≤ b.toNat) (hfree : s.busy p = false) :
    exec (.configGet p [b]) s = .next (s.sendReply p [0x85#8, 0x07#8]) := by
  rw [exec_configGet, State.takeRequest_error hfree (s.earlyRefusal_configGet p b) (takeConfigGet_of_range p s hb)]
  rfl

theorem exec_configSet_self {b : Byte} {t : TowerIx} {s : State} (hb : b.toNat = t.val)
    (hsound : (s.tower t).config.Sound) (hfree : s.busy .console = false) :
    exec (.configSet .console (b :: configBytes (s.tower t).config)) s =
      .next (s.sendReply .console [0xB0#8, 0x00#8]) := by
  rw [exec_configSet, State.takeRequest_ok hfree (s.earlyRefusal_configSet (by simp)) (takeConfigSet_self _ hb hsound)]
  rfl

/-! ### The statements -/

/-- Settles O9: CONFIG GET answers the bytes of the record, a sound record is read back from them, and a record equal to the
tower's own configures nothing. -/
theorem configGetAndSetRoundTrip : Obligations.ConfigGetAndSetRoundTrip := by
  refine ⟨fun t b s hb hsound => ?_, fun p b s hb hfree => exec_configGet_of_range hb hfree⟩
  exact ⟨configBytes (s.tower t).config, configBytes_length _, hsound.readConfig_configBytes,
    fun p hfree => exec_configGet_of_tower hb hfree, fun hfree => exec_configSet_self hb hsound hfree⟩

/-- Settles O33: the mapping is its own inverse on the Z keys, so each zone has its one key; it reads the RUN slot and the
record only. -/
theorem zoneMapping : Obligations.ZoneMapping := by
  intro tw
  exact ⟨fun k _ => tw.zoneOf_eq k, fun k hk => Tower.zoneOf_lt hk, fun z hz => Tower.existsUnique_zoneOf hz,
    fun k v _ hv => Tower.coverageUnder_of_written hv, fun next k => ⟨rfl, rfl⟩, rfl⟩

end Sys2Proof.Machine

/-! SUPPORT. The Plate Coverage Store (R23 to R35): sets of zones as bytes, the window as a list of zones, a fill zone by zone,
the write context block, and the requests that set, fill and read through a write context. -/

namespace Sys2Proof.Machine

/-! ### Sets of 48 members (R174) -/

theorem getElem?_bytes48 (w : BitVec 48) {q : Nat} (hq : q < 6) :
    (bytes48 w)[5 - q]? = some (w.extractLsb' (8 * q) 8) := by
  interval_cases q <;> rfl

/-- The six bytes of a set, sent behind other bytes, hold its members. -/
theorem fieldSet_bytes48 (front : List Byte) (w : BitVec 48) : FieldSet (front ++ bytes48 w) front.length w.getLsbD := by
  intro m hm
  refine ⟨w.extractLsb' (8 * (m / 8)) 8, ?_, ?_⟩
  · rw [List.getElem?_append_right (by omega), Nat.add_sub_cancel_left, getElem?_bytes48 w (by omega)]
  · rw [BitVec.getLsbD_extractLsb', Nat.div_add_mod]
    simp [Nat.mod_lt]

theorem FieldSet.congr {body : List Byte} {i : Nat} {a b : Nat → Bool} (h : FieldSet body i a)
    (hab : ∀ m, m < 48 → a m = b m) : FieldSet body i b := by
  intro m hm
  obtain ⟨byte, hbyte, hbit⟩ := h m hm
  exact ⟨byte, hbyte, hbit.trans (hab m hm)⟩

/-- Six bytes hold one set. -/
theorem FieldSet.unique {body : List Byte} {i : Nat} {a b : Nat → Bool} (ha : FieldSet body i a) (hb : FieldSet body i b)
    {m : Nat} (hm : m < 48) : a m = b m := by
  obtain ⟨x, hx, hxa⟩ := ha m hm
  obtain ⟨y, hy, hyb⟩ := hb m hm
  obtain rfl : x = y := Option.some.inj (hx.symm.trans hy)
  exact hxa.symm.trans hyb

theorem extractLsb'_append_byte {n : Nat} (x : BitVec n) (y : Byte) (k : Nat) :
    (x ++ y).extractLsb' (k + 8) 8 = x.extractLsb' k 8 := by
  rw [BitVec.extractLsb'_append_eq_of_le (Nat.le_add_left 8 k), Nat.add_sub_cancel]

/-- Six bytes read as a set are sent as they were. -/
theorem bytes48_be48 (a b c d e f : Byte) : bytes48 (be48 a b c d e f) = [a, b, c, d, e, f] := by
  simp only [bytes48, be48, BitVec.extractLsb'_append_eq_right, BitVec.extractLsb'_eq_self, extractLsb'_append_byte _ _ 32,
    extractLsb'_append_byte _ _ 24, extractLsb'_append_byte _ _ 16, extractLsb'_append_byte _ _ 8,
    extractLsb'_append_byte _ _ 0]

/-- A set is read back from six bytes that hold it. -/
theorem be48_of_fieldSet {a b c d e f : Byte} {mask : BitVec 48} (h : FieldSet [a, b, c, d, e, f] 0 mask.getLsbD) :
    be48 a b c d e f = mask := by
  have hread : FieldSet [a, b, c, d, e, f] 0 (be48 a b c d e f).getLsbD :=
    bytes48_be48 a b c d e f ▸ fieldSet_bytes48 [] (be48 a b c d e f)
  exact BitVec.eq_of_getLsbD_eq fun m hm => hread.unique h hm

/-- Member m of the set of a list of zones is m being listed. -/
theorem getLsbD_zoneSet (zones : List Nat) {m : Nat} (hm : m < 48) : (zoneSet zones).getLsbD m = decide (m ∈ zones) := by
  have hfold : ∀ w : BitVec 48, (zones.foldl (fun w z => w ||| (1#48 <<< z)) w).getLsbD m =
      (w.getLsbD m || decide (m ∈ zones)) := by
    induction zones with
    | nil => simp
    | cons z zones ih =>
      intro w
      have hbit : (1#48 <<< z).getLsbD m = decide (m = z) := by
        rw [Bool.eq_iff_iff]
        simp [hm]
        omega
      simp [ih, hbit, Bool.or_assoc]
  simpa [zoneSet] using hfold 0#48

/-! ### The window of a write context (R23) -/

theorem WriteContext.mem_window (c : WriteContext) (z : Nat) : z ∈ c.window ↔ c.first ≤ z ∧ z ≤ c.last := by
  simp only [WriteContext.window, List.mem_map, List.mem_range]
  constructor
  · rintro ⟨i, hi, rfl⟩
    omega
  · rintro ⟨hfirst, hlast⟩
    exact ⟨z - c.first, by omega, by omega⟩

theorem WriteContext.window_nodup (c : WriteContext) : c.window.Nodup :=
  List.nodup_range.map fun _ _ h => Nat.add_left_cancel h

@[simp] theorem WriteContext.length_inDirection (c : WriteContext) : c.inDirection.length = c.last + 1 - c.first := by
  unfold WriteContext.inDirection
  split <;> simp [WriteContext.window]

/-- The i-th zone read counts up from first or down from last (R34). -/
theorem WriteContext.getElem?_inDirection (c : WriteContext) {i : Nat} (hi : i < c.last + 1 - c.first) :
    c.inDirection[i]? = some (if c.direction = .up then c.first + i else c.last - i) := by
  unfold WriteContext.inDirection
  cases c.direction with
  | up => simp [WriteContext.window, hi]
  | down =>
    have hlt : i < c.window.length := by simpa [WriteContext.window] using hi
    rw [List.getElem?_reverse hlt]
    have hback : c.last + 1 - c.first - 1 - i < c.last + 1 - c.first := by omega
    simp [WriteContext.window, hback]
    omega

theorem WriteContext.placed_eq (c : WriteContext) :
    c.placed = { c with pointer := some (if c.direction = .up then c.first else c.last) } := by
  unfold WriteContext.placed
  cases c.direction <;> rfl

/-! ### The write context block (R175) -/

theorem byteOption_toNat {o : Option Nat} (h : ∀ q ∈ o, q < 256) : (byteOption o).toNat = o.getD 255 := by
  cases o with
  | none => rfl
  | some q => exact byteOf_toNat (h q rfl)

theorem SlotName.code_toNat (n : SlotName) : n.code.toNat = if n = .run then 0 else 1 := by cases n <;> rfl

theorem Direction.code_toNat (d : Direction) : d.code.toNat = if d = .up then 0 else 1 := by cases d <;> rfl

/-- The block sent behind two bytes holds the context, whose window fits its bytes. -/
theorem WriteContext.contextFields_block (f r : Byte) {c : WriteContext} (hfirst : c.first < 256) (hlast : c.last < 256)
    (hpointer : ∀ q ∈ c.pointer, q < 256) : ContextFields (f :: r :: c.block) 2 c := by
  refine ⟨⟨_, rfl, byteOf_toNat (by omega)⟩, ⟨_, rfl, c.slot.code_toNat⟩, ⟨_, rfl, byteOf_toNat hfirst⟩,
    ⟨_, rfl, byteOf_toNat hlast⟩, ⟨_, rfl, byteOption_toNat hpointer⟩, ⟨_, rfl, c.direction.code_toNat⟩,
    ⟨_, rfl, ?_⟩, fieldSet_bytes48 [f, r, _, _, _, _, _, _, _] c.mask⟩
  cases c.mode <;> rfl

/-- The block of a context just placed, whose pointer is a window end. -/
theorem WriteContext.contextFields_placed (f r : Byte) {c : WriteContext} (hfirst : c.first < 256) (hlast : c.last < 256) :
    ContextFields (f :: r :: c.placed.block) 2 c.placed := by
  refine WriteContext.contextFields_block f r hfirst hlast fun q hq => ?_
  rw [WriteContext.placed_eq] at hq
  obtain rfl := Option.some.inj hq
  split <;> assumption

/-! ### A fill, zone by zone (R28, R33) -/

theorem clampCoverage_eq (v : Nat) : clampCoverage v = min v 1000 := by
  unfold clampCoverage
  split <;> omega

/-- Each zone listed once takes the value; every other zone is as it was. -/
theorem Slot.zone_storeAll (mode : Mode) (v : Nat) {zones : List Nat} (hnd : zones.Nodup) {sl : Slot}
    (hlt : ∀ z ∈ zones, z < sl.coverage.length) (y : Nat) :
    (zones.foldl (fun sl z => sl.store mode z v) sl).zone y =
      if y ∈ zones then some (combine mode (sl.zone y) v) else sl.zone y := by
  induction zones generalizing sl with
  | nil => simp
  | cons z zones ih =>
    obtain ⟨hz, hnd⟩ := List.nodup_cons.mp hnd
    rw [List.foldl_cons, ih hnd fun a ha => by simpa using hlt a (List.mem_cons_of_mem z ha)]
    by_cases hy : y = z
    · subst hy
      rw [Slot.zone_store_same _ _ _ (hlt y List.mem_cons_self)]
      simp [hz]
    · simp [Slot.zone_store_of_ne _ _ _ hy, hy]

/-- A fill leaves the zone count, the tag and the mirrored flag (R33). -/
theorem WriteContext.fill_leaves (c : WriteContext) (v : Nat) (sl : Slot) :
    (c.fill v sl).coverage.length = sl.coverage.length ∧ (c.fill v sl).tag = sl.tag ∧
      (c.fill v sl).mirrored = sl.mirrored := by
  unfold WriteContext.fill
  induction c.window.filter c.masksIn generalizing sl with
  | nil => exact ⟨rfl, rfl, rfl⟩
  | cons z zones ih => simpa using ih (sl.store c.mode z (clampCoverage v))

theorem WriteContext.mem_filled (c : WriteContext) (z : Nat) :
    z ∈ c.window.filter c.masksIn ↔ c.first ≤ z ∧ z ≤ c.last ∧ c.mask.getLsbD z = true := by
  rw [List.mem_filter, WriteContext.mem_window, and_assoc]
  rfl

/-- A fill combines its clamped value into the masked-in zones of the window alone (R33). -/
theorem WriteContext.zone_fill {c : WriteContext} {sl : Slot} (hlast : c.last < sl.coverage.length) (v z : Nat) :
    (c.fill v sl).zone z =
      if c.first ≤ z ∧ z ≤ c.last ∧ c.mask.getLsbD z = true then some (combine c.mode (sl.zone z) (min v 1000))
      else sl.zone z := by
  unfold WriteContext.fill
  rw [Slot.zone_storeAll _ _ (c.window_nodup.filter _) fun a ha => by
    obtain ⟨-, ha, -⟩ := (c.mem_filled a).mp ha
    omega]
  simp only [c.mem_filled, clampCoverage_eq]

/-- The zones a fill counts are the masked-in zones of the window among the 48 a tower can have. -/
theorem WriteContext.length_filled {c : WriteContext} (hlast : c.last < 48) :
    (c.window.filter c.masksIn).length =
      ((List.range 48).filter fun z => decide (c.first ≤ z ∧ z ≤ c.last ∧ c.mask.getLsbD z = true)).length := by
  refine ((List.perm_ext_iff_of_nodup (c.window_nodup.filter _) (List.nodup_range.filter _)).mpr fun z => ?_).length_eq
  simp only [c.mem_filled, List.mem_filter, List.mem_range, decide_eq_true_eq]
  exact ⟨fun h => ⟨Nat.lt_of_le_of_lt h.2.1 hlast, h⟩, And.right⟩

/-- The table of R28. -/
theorem combine_table (mode : Mode) (old : Option Nat) (v : Nat) :
    (mode = .replace → combine mode old v = v) ∧ (mode = .add → combine mode old v = min (old.getD 0 + v) 1000) ∧
      (mode = .subtract → combine mode old v = old.getD 0 - v) ∧
      (mode = .max → combine mode old v = if v ≤ old.getD 0 then old.getD 0 else v) := by
  refine ⟨?_, ?_, ?_, ?_⟩ <;> rintro rfl <;> simp only [combine]
  · split <;> omega
  · split <;> omega

/-! ### What a stored slot leaves of the machine (R22) -/

theorem State.setTower_sameBut (s : State) (t : TowerIx) (tw : Tower) : SameBut t s (s.setTower t tw) :=
  ⟨rfl, rfl, rfl, rfl, rfl, fun _ h => State.tower_setTower_of_ne s tw h⟩

theorem SameBut.refresh {t : TowerIx} {s u : State} (h : SameBut t s u) (ks : List Nat) (b : Bool) :
    SameBut t s (u.refresh t ks b) := by
  obtain ⟨h1, h2, h3, h4, h5, h6⟩ := h
  exact ⟨by simpa, by simpa, by simpa, by simpa, by simpa, fun t' ht => by
    rw [State.refresh_tower_of_ne _ _ _ ht, h6 t' ht]⟩

theorem SameBut.sendReply {t : TowerIx} {s u : State} (h : SameBut t s u) (p : MasterPort) (body : List Byte) :
    SameBut t s (u.sendReply p body) := by
  simpa [SameBut] using h

theorem State.storeSlot_sameBut (s : State) (t : TowerIx) (n : SlotName) (sl : Slot) : SameBut t s (s.storeSlot t n sl) := by
  rcases s.storeSlot_cases t n sl with h | ⟨-, ks, -, h⟩ <;> rw [h]
  · exact s.setTower_sameBut t _
  · exact (s.setTower_sameBut t _).refresh ks true

@[simp] theorem State.storeSlot_port (s : State) (t : TowerIx) (n : SlotName) (sl : Slot) (p : MasterPort) :
    (s.storeSlot t n sl).port p = s.port p := by
  rcases s.storeSlot_cases t n sl with h | ⟨-, ks, -, h⟩ <;> simp [h]

/-- A stored RUN slot stands in its tower, whose record and NEXT slot are as they were. -/
theorem State.storeSlot_run_tower (s : State) (t : TowerIx) (sl : Slot) :
    ((s.storeSlot t .run sl).tower t).run = sl ∧ ((s.storeSlot t .run sl).tower t).next = (s.tower t).next ∧
      ((s.storeSlot t .run sl).tower t).config = (s.tower t).config := by
  rcases s.storeSlot_cases t .run sl with h | ⟨-, ks, hnd, h⟩ <;> rw [h]
  · rw [State.tower_setTower_same]
    exact ⟨rfl, rfl, rfl⟩
  · rw [State.refresh_tower_same, State.tower_setTower_same]
    obtain ⟨hconfig, hrun, hnext, -, -⟩ :=
      Tower.refresh_leaves (s.setTower t ((s.tower t).setSlot .run sl)).curves hnd true ((s.tower t).setSlot .run sl)
    exact ⟨hrun, hnext, hconfig⟩

/-! ### The checks before steps 6 to 8 (R152, R153, R154) -/

/-- A request of an allowed rank and length that stores nothing is permitted. -/
theorem State.earlyRefusal_of_no_member {s : State} {p : MasterPort} {fn : MasterFn} {args : List Byte}
    (hrank : portRank p ≤ requiredRank fn) (hlength : lengthFits fn args.length = true)
    (hmember : s.accessMember p fn args = none) : s.earlyRefusal p fn args = none := by
  simp [State.earlyRefusal, Nat.not_lt.mpr hrank, hlength, hmember, State.denies]

/-- A store of an allowed rank and length into a member that the port may change is permitted. -/
theorem State.earlyRefusal_of_permits {s : State} {p : MasterPort} {fn : MasterFn} {args : List Byte} {m : Nat}
    (hrank : portRank p ≤ requiredRank fn) (hlength : lengthFits fn args.length = true)
    (hmember : s.accessMember p fn args = some m) (hpermits : s.Permits p m) : s.earlyRefusal p fn args = none := by
  have hdenies : s.denies p (some m) = false := by
    rcases hpermits with h | h <;> simp [State.denies, h]
  simp [State.earlyRefusal, Nat.not_lt.mpr hrank, hlength, hmember, hdenies]

theorem portRank_le_two (p : MasterPort) : portRank p ≤ 2 := by cases p <;> decide

theorem portRank_le_one {p : MasterPort} (h : p ≠ .scanner) : portRank p ≤ 1 := by
  cases p with
  | console => decide
  | plate => decide
  | scanner => exact absurd rfl h

/-! ### WINDOW SET and WRITE MODE SET (R25, R26) -/

theorem exec_windowSet (p : MasterPort) (args : List Byte) (s : State) :
    exec (.windowSet p args) s = .next (s.takeRequest p .windowSet args takeWindowSet) := rfl

theorem exec_writeModeSet (p : MasterPort) (args : List Byte) (s : State) :
    exec (.writeModeSet p args) s = .next (s.takeRequest p .writeModeSet args takeWriteModeSet) := rfl

theorem State.earlyRefusal_windowSet (s : State) (p : MasterPort) (b sl f l : Byte) :
    s.earlyRefusal p .windowSet [b, sl, f, l] = none :=
  State.earlyRefusal_of_no_member (portRank_le_two p) rfl rfl

theorem State.earlyRefusal_writeModeSet (s : State) (p : MasterPort) {args : List Byte} (h : args.length = 8) :
    s.earlyRefusal p .writeModeSet args = none :=
  State.earlyRefusal_of_no_member (portRank_le_two p) (by simp [lengthFits, h]) rfl

theorem readSlot_of_eq {b : Byte} {slot : SlotName} (h : b = if slot = .run then 0x00#8 else 0x01#8) :
    readSlot b = some slot := by
  subst h
  cases slot <;> rfl

theorem byte_ne_of_le_toNat {b c : Byte} {n : Nat} (h : n ≤ b.toNat) (hc : c.toNat < n) : b ≠ c := by
  rintro rfl
  omega

theorem readSlot_none {b : Byte} (h : 2 ≤ b.toNat) : readSlot b = none := by
  have h0 : b ≠ 0x00#8 := byte_ne_of_le_toNat h (by decide)
  have h1 : b ≠ 0x01#8 := byte_ne_of_le_toNat h (by decide)
  simp [readSlot, h0, h1]

theorem readDirection_of_eq {b : Byte} {direction : Direction} (h : b = if direction = .up then 0x00#8 else 0x01#8) :
    readDirection b = some direction := by
  subst h
  cases direction <;> rfl

theorem readDirection_none {b : Byte} (h : 2 ≤ b.toNat) : readDirection b = none := by
  have h0 : b ≠ 0x00#8 := byte_ne_of_le_toNat h (by decide)
  have h1 : b ≠ 0x01#8 := byte_ne_of_le_toNat h (by decide)
  simp [readDirection, h0, h1]

theorem readMode_none {b : Byte} (h : 4 ≤ b.toNat) : readMode b = none := by
  have h0 : b ≠ 0x00#8 := byte_ne_of_le_toNat h (by decide)
  have h1 : b ≠ 0x01#8 := byte_ne_of_le_toNat h (by decide)
  have h2 : b ≠ 0x02#8 := byte_ne_of_le_toNat h (by decide)
  have h3 : b ≠ 0x03#8 := byte_ne_of_le_toNat h (by decide)
  simp [readMode, h0, h1, h2, h3]

/-- A window inside its tower is taken, and the pointer placed in it (R25). -/
theorem takeWindowSet_of_fields {p : MasterPort} {t : TowerIx} {slot : SlotName} {b sl f l : Byte} {s : State}
    (hb : b.toNat = t.val) (hsl : readSlot sl = some slot) (hfl : f.toNat ≤ l.toNat) (hl : l.toNat < (s.tower t).z) :
    let c := { (s.port p).ctx with tower := t, slot := slot, first := f.toNat, last := l.toNat }.placed
    takeWindowSet p [b, sl, f, l] s = .ok (s.setCtx p c, .ok, c.block) := by
  simp [takeWindowSet, readTower_of_toNat hb, hsl, hfl, hl]

/-- A tower, slot or window out of range is refused (R25). -/
theorem takeWindowSet_of_range (p : MasterPort) {b sl f l : Byte} {s : State}
    (h : 12 ≤ b.toNat ∨ 2 ≤ sl.toNat ∨ l.toNat < f.toNat ∨ ∃ t : TowerIx, b.toNat = t.val ∧ (s.tower t).z ≤ l.toNat) :
    takeWindowSet p [b, sl, f, l] s = .error .range := by
  simp only [takeWindowSet]
  rcases h with h | h | h | ⟨t, hb, h⟩
  · rw [readTower_none h]
  · rw [readSlot_none h]
    cases readTower b <;> rfl
  · split
    · exact if_neg fun hw => absurd hw.1 (Nat.not_le.mpr h)
    · rfl
  · rw [readTower_of_toNat hb]
    cases readSlot sl with
    | none => rfl
    | some slot => exact if_neg fun hw => absurd hw.2 (Nat.not_lt.mpr h)

/-- A known mode and direction are taken, and the pointer placed in the window as it stands (R26). -/
theorem takeWriteModeSet_of_fields {p : MasterPort} {mode : Mode} {direction : Direction} {m d : Byte}
    {m5 m4 m3 m2 m1 m0 : Byte} {s : State} (hm : readMode m = some mode) (hd : readDirection d = some direction) :
    let c := { (s.port p).ctx with mode := mode, direction := direction, mask := be48 m5 m4 m3 m2 m1 m0 }.placed
    takeWriteModeSet p [m, d, m5, m4, m3, m2, m1, m0] s = .ok (s.setCtx p c, .ok, c.block) := by
  simp [takeWriteModeSet, hm, hd]

/-- A mode or a direction of no code is refused (R26). -/
theorem takeWriteModeSet_of_range (p : MasterPort) {m d m5 m4 m3 m2 m1 m0 : Byte} {s : State}
    (h : 4 ≤ m.toNat ∨ 2 ≤ d.toNat) : takeWriteModeSet p [m, d, m5, m4, m3, m2, m1, m0] s = .error .range := by
  simp only [takeWriteModeSet]
  rcases h with h | h
  · rw [readMode_none h]
  · rw [readDirection_none h]
    cases readMode m <;> rfl

theorem eq_six_of_length {α : Type} {l : List α} (h : l.length = 6) : ∃ a b c d e f, l = [a, b, c, d, e, f] := by
  match l, h with
  | [a, b, c, d, e, f], _ => exact ⟨a, b, c, d, e, f, rfl⟩

/-- A taken WINDOW SET answers the context it placed (R24, R25). -/
theorem exec_windowSet_of_fields {p : MasterPort} {t : TowerIx} {slot : SlotName} {b sl f l : Byte} {s : State}
    (hfree : s.busy p = false) (hb : b.toNat = t.val) (hsl : readSlot sl = some slot) (hfl : f.toNat ≤ l.toNat)
    (hl : l.toNat < (s.tower t).z) :
    let c := { (s.port p).ctx with tower := t, slot := slot, first := f.toNat, last := l.toNat }.placed
    exec (.windowSet p [b, sl, f, l]) s = .next ((s.setCtx p c).sendReply p (0x90#8 :: 0x00#8 :: c.block)) := by
  intro c
  rw [exec_windowSet, State.takeRequest_ok hfree (s.earlyRefusal_windowSet p b sl f l)
    (takeWindowSet_of_fields hb hsl hfl hl)]
  rfl

theorem exec_windowSet_of_range {p : MasterPort} {b sl f l : Byte} {s : State} (hfree : s.busy p = false)
    (h : 12 ≤ b.toNat ∨ 2 ≤ sl.toNat ∨ l.toNat < f.toNat ∨ ∃ t : TowerIx, b.toNat = t.val ∧ (s.tower t).z ≤ l.toNat) :
    exec (.windowSet p [b, sl, f, l]) s = .next (s.sendReply p [0x90#8, 0x07#8]) := by
  rw [exec_windowSet, State.takeRequest_error hfree (s.earlyRefusal_windowSet p b sl f l) (takeWindowSet_of_range p h)]
  rfl

/-- A taken WRITE MODE SET answers the context it placed (R24, R26). -/
theorem exec_writeModeSet_of_fields {p : MasterPort} {mode : Mode} {direction : Direction} {mask : BitVec 48} {m d : Byte}
    {ms : List Byte} {s : State} (hfree : s.busy p = false) (hm : readMode m = some mode)
    (hd : readDirection d = some direction) (hlen : ms.length = 6) (hmask : FieldSet ms 0 mask.getLsbD) :
    let c := { (s.port p).ctx with mode := mode, direction := direction, mask := mask }.placed
    exec (.writeModeSet p (m :: d :: ms)) s = .next ((s.setCtx p c).sendReply p (0x91#8 :: 0x00#8 :: c.block)) := by
  intro c
  obtain ⟨m5, m4, m3, m2, m1, m0, rfl⟩ := eq_six_of_length hlen
  obtain rfl := be48_of_fieldSet hmask
  rw [exec_writeModeSet, State.takeRequest_ok hfree (s.earlyRefusal_writeModeSet p rfl) (takeWriteModeSet_of_fields hm hd)]
  rfl

theorem exec_writeModeSet_of_range {p : MasterPort} {m d : Byte} {ms : List Byte} {s : State} (hfree : s.busy p = false)
    (hlen : ms.length = 6) (h : 4 ≤ m.toNat ∨ 2 ≤ d.toNat) :
    exec (.writeModeSet p (m :: d :: ms)) s = .next (s.sendReply p [0x91#8, 0x07#8]) := by
  obtain ⟨m5, m4, m3, m2, m1, m0, rfl⟩ := eq_six_of_length hlen
  rw [exec_writeModeSet, State.takeRequest_error hfree (s.earlyRefusal_writeModeSet p rfl) (takeWriteModeSet_of_range p h)]
  rfl

/-! ### ZONES FILL, ZONES READ and ZONES ABOVE (R33, R34, R35) -/

theorem exec_zonesFill (p : MasterPort) (args : List Byte) (s : State) :
    exec (.zonesFill p args) s = .next (s.takeRequest p .zonesFill args takeZonesFill) := rfl

theorem exec_zonesRead (p : MasterPort) (args : List Byte) (s : State) :
    exec (.zonesRead p args) s = .next (s.takeRequest p .zonesRead args takeZonesRead) := rfl

theorem exec_zonesAbove (p : MasterPort) (args : List Byte) (s : State) :
    exec (.zonesAbove p args) s = .next (s.takeRequest p .zonesAbove args takeZonesAbove) := rfl

theorem Tower.mayStore_iff (tw : Tower) (n : SlotName) :
    tw.mayStore n = true ↔ n = .next ∨ tw.state = .dark ∨ tw.state = .held := by
  cases n <;> simp [Tower.mayStore]

@[simp] theorem code_clampResult (b : Bool) : (clampResult b).code = if b then 0x01#8 else 0x00#8 := by cases b <;> rfl

theorem State.earlyRefusal_zonesFill {s : State} {p : MasterPort} (hp : p ≠ .scanner)
    (hpermits : s.Permits p (s.port p).ctx.tower.val) (v : Nat) : s.earlyRefusal p .zonesFill (bytes16 v) = none :=
  State.earlyRefusal_of_permits (portRank_le_one hp) rfl rfl hpermits

/-- A fill that is permitted stores its slot and answers the number of zones stored into (R33). -/
theorem exec_zonesFill_of_permits {p : MasterPort} {v : Nat} {s : State} (hp : p ≠ .scanner) (hfree : s.busy p = false)
    (hv : v < 65536) (hpermits : s.Permits p (s.port p).ctx.tower.val)
    (hstore : (s.tower (s.port p).ctx.tower).mayStore (s.port p).ctx.slot = true) :
    let c := (s.port p).ctx
    exec (.zonesFill p (bytes16 v)) s =
      .next ((s.storeSlot c.tower c.slot (c.fill v ((s.tower c.tower).slot c.slot))).sendReply p
        [0x93#8, if 1000 < v then 0x01#8 else 0x00#8, byteOf (c.window.filter c.masksIn).length]) := by
  intro c
  have htake : takeZonesFill p (bytes16 v) s =
      .ok (s.storeSlot c.tower c.slot (c.fill v ((s.tower c.tower).slot c.slot)), clampResult (decide (1000 < v)),
        [byteOf (c.window.filter c.masksIn).length]) := by
    simp [takeZonesFill, bytes16, be16_bytes hv, hstore, anyClamped, c]
  rw [exec_zonesFill, State.takeRequest_ok hfree (State.earlyRefusal_zonesFill hp hpermits v) htake, code_clampResult]
  simp only [decide_eq_true_eq]
  rfl

theorem exec_zonesRead_of_free {p : MasterPort} {s : State} (hfree : s.busy p = false) :
    let c := (s.port p).ctx
    exec (.zonesRead p []) s = .next (s.sendReply p
      ([0x94#8, 0x00#8, byteOf c.tower.val, c.slot.code, byteOf c.first, byteOf c.last, c.direction.code] ++
        c.inDirection.flatMap fun z => bytesOption16 (((s.tower c.tower).slot c.slot).zone z))) := by
  have hearly : s.earlyRefusal p .zonesRead [] = none := State.earlyRefusal_of_no_member (portRank_le_two p) rfl rfl
  rw [exec_zonesRead, State.takeRequest_ok hfree hearly rfl]
  rfl

theorem exec_zonesAbove_of_free {p : MasterPort} {threshold : Nat} {s : State} (hfree : s.busy p = false)
    (h : threshold < 65536) :
    let c := (s.port p).ctx
    exec (.zonesAbove p (bytes16 threshold)) s = .next (s.sendReply p
      ([0x95#8, 0x00#8] ++ bytes48 (zoneSet (c.above ((s.tower c.tower).slot c.slot) threshold)))) := by
  intro c
  have hearly : s.earlyRefusal p .zonesAbove (bytes16 threshold) = none :=
    State.earlyRefusal_of_no_member (portRank_le_two p) rfl rfl
  have htake : takeZonesAbove p (bytes16 threshold) s =
      .ok (s, .ok, bytes48 (zoneSet (c.above ((s.tower c.tower).slot c.slot) threshold))) := by
    simp [takeZonesAbove, bytes16, be16_bytes h, c]
  rw [exec_zonesAbove, State.takeRequest_ok hfree hearly htake]
  rfl

theorem length_bytesOption16 (o : Option Nat) : (bytesOption16 o).length = 2 := by cases o <;> rfl

/-- A number that may be absent is sent as 0xFFFF when it is (R172). -/
theorem field16_bytesOption16 {o : Option Nat} (h : ∀ n ∈ o, n < 65536) (rest : List Byte) :
    Field16 (bytesOption16 o ++ rest) 0 (o.getD 65535) := by
  cases o with
  | none => exact ⟨_, _, rfl, rfl, rfl⟩
  | some n => exact ⟨_, _, rfl, rfl, by rw [← be16_eq, be16_bytes (h n rfl)]; rfl⟩

theorem field16_append (front body : List Byte) (i n : Nat) :
    Field16 (front ++ body) (front.length + i) n ↔ Field16 body i n := by
  simp only [field16_iff, Nat.add_assoc, List.getElem?_append_right (Nat.le_add_right _ _), Nat.add_sub_cancel_left]

theorem length_flatMap_bytesOption16 {α : Type} (f : α → Option Nat) (l : List α) :
    (l.flatMap fun a => bytesOption16 (f a)).length = 2 * l.length := by
  induction l with
  | nil => rfl
  | cons a l ih => simp only [List.flatMap_cons, List.length_append, List.length_cons, ih, length_bytesOption16]; omega

/-- The i-th number of a list of 16-bit numbers. -/
theorem field16_flatMap_bytesOption16 {α : Type} {f : α → Option Nat} {l : List α} (h : ∀ a ∈ l, ∀ n ∈ f a, n < 65536)
    {i : Nat} {a : α} (hi : l[i]? = some a) :
    Field16 (l.flatMap fun a => bytesOption16 (f a)) (2 * i) ((f a).getD 65535) := by
  induction l generalizing i with
  | nil => cases hi
  | cons b l ih =>
    rw [List.flatMap_cons]
    cases i with
    | zero =>
      obtain rfl := Option.some.inj hi
      exact field16_bytesOption16 (h b List.mem_cons_self) _
    | succ i =>
      rw [show 2 * (i + 1) = (bytesOption16 (f b)).length + 2 * i by rw [length_bytesOption16]; omega, field16_append]
      exact ih (fun a ha => h a (List.mem_cons_of_mem b ha)) hi

theorem WriteContext.mem_above (c : WriteContext) (sl : Slot) (threshold z : Nat) :
    z ∈ c.above sl threshold ↔
      (c.first ≤ z ∧ z ≤ c.last) ∧ c.mask.getLsbD z = true ∧ ∃ v ∈ sl.zone z, threshold ≤ v := by
  rw [WriteContext.above, List.mem_filter, WriteContext.mem_window]
  cases sl.zone z <;> simp [WriteContext.masksIn]

/-! ### Requests that leave the write contexts, and the reset of R15 -/

theorem State.sendReply_ctx (s : State) (p q : MasterPort) (body : List Byte) :
    ((s.sendReply p body).port q).ctx = (s.port q).ctx := by
  by_cases h : q = p
  · subst h; simp
  · rw [State.sendReply_port_of_ne _ _ h]

/-- A request whose own steps leave a port's write context leaves it. -/
theorem State.takeRequest_ctx {s : State} {p : MasterPort} {fn : MasterFn} {args : List Byte}
    {body : MasterPort → List Byte → State → Taken} (q : MasterPort)
    (hbody : ∀ s' r data, body p args s = .ok (s', r, data) → (s'.port q).ctx = (s.port q).ctx) :
    ((s.takeRequest p fn args body).port q).ctx = (s.port q).ctx :=
  State.takeRequest_keeps (Inv := fun u => (u.port q).ctx = (s.port q).ctx) rfl
    (fun u p' bytes h => by rw [State.sendReply_ctx, h]) hbody

theorem takeZonesFill_port {p : MasterPort} {args data : List Byte} {s s' : State} {r : Result} (q : MasterPort)
    (h : takeZonesFill p args s = .ok (s', r, data)) : s'.port q = s.port q := by
  unfold takeZonesFill at h
  split at h
  · simp only at h
    split at h
    · obtain ⟨rfl, -⟩ := Prod.mk.inj (Except.ok.inj h)
      exact State.storeSlot_port ..
    · cases h
  · cases h

theorem takeZonesAbove_state {p : MasterPort} {args data : List Byte} {s s' : State} {r : Result}
    (h : takeZonesAbove p args s = .ok (s', r, data)) : s' = s := by
  unfold takeZonesAbove at h
  split at h
  · exact (Prod.mk.inj (Except.ok.inj h)).1.symm
  · cases h

/-- ZONES FILL, ZONES READ and ZONES ABOVE leave the pointer, and the whole write context (R24). -/
theorem exec_zones_ctx {fn : MasterFn} (hfn : fn ∈ [MasterFn.zonesFill, .zonesRead, .zonesAbove]) {p : MasterPort}
    {args : List Byte} {s u : State} (h : exec (fn.command p args) s = .next u) : (u.port p).ctx = (s.port p).ctx := by
  simp only [List.mem_cons, List.not_mem_nil, or_false] at hfn
  rcases hfn with rfl | rfl | rfl
  · obtain rfl := Host.Outcome.next.inj h
    exact State.takeRequest_ctx p fun s' r data hb => by rw [takeZonesFill_port p hb]
  · obtain rfl := Host.Outcome.next.inj h
    exact State.takeRequest_ctx p fun s' r data hb => by rw [(Prod.mk.inj (Except.ok.inj hb)).1]
  · obtain rfl := Host.Outcome.next.inj h
    exact State.takeRequest_ctx p fun s' r data hb => by rw [takeZonesAbove_state hb]

@[simp] theorem State.refreshTower_port (s : State) (t : TowerIx) (p : MasterPort) :
    (s.refreshTower t).port p = s.port p := State.refresh_port ..

@[simp] theorem State.refreshTower_z (s : State) (t u : TowerIx) : ((s.refreshTower t).tower u).z = (s.tower u).z := by
  by_cases h : u = t
  · subst h
    unfold State.refreshTower
    rw [State.refresh_tower_same, Tower.z, (Tower.refresh_leaves _ (Tower.allKeys_nodup _) true _).1, Tower.z]
  · unfold State.refreshTower
    rw [State.refresh_tower_of_ne _ _ _ h]

@[simp] theorem Tower.reshape_config (tw : Tower) (z : Nat) : (tw.reshape z).config = tw.config :=
  (Tower.driveOnly_surveyAll _ _).1.1

/-- A property that a refresh of the tower keeps holds after a new record, once it holds of the tower with that record, reshaped
and with its contexts reset where Z changed (R14, R15, R16). -/
theorem State.configure_keeps {P : State → Prop} {s : State} {t : TowerIx} {c : TowerConfig}
    (hrefresh : ∀ u, P u → P (u.refreshTower t))
    (hsame : c.geometry.z = (s.tower t).z → P (s.setTower t { s.tower t with config := c }))
    (hreshape : c.geometry.z ≠ (s.tower t).z →
      P ((s.setTower t (Tower.reshape { s.tower t with config := c } c.geometry.z)).resetContexts t c.geometry.z)) :
    P (s.configure t c) := by
  have hbefore : P (if c.geometry.z = (s.tower t).z then s.setTower t { s.tower t with config := c }
      else (s.setTower t (Tower.reshape { s.tower t with config := c } c.geometry.z)).resetContexts t c.geometry.z) := by
    split
    · next hz => exact hsame hz
    · next hz => exact hreshape hz
  unfold State.configure
  simp only
  split
  · exact hbefore
  · exact hrefresh _ hbefore

/-- Where a tower's Z differs, every write context is as a reset for that tower makes it (R15 step 2). -/
def State.ResetsContexts (s u : State) : Prop :=
  ∀ (t : TowerIx) (q : MasterPort), (u.tower t).z ≠ (s.tower t).z →
    (u.port q).ctx = (s.port q).ctx.resetFor t (u.tower t).z

theorem State.resetsContexts_of_z {s u : State} (h : ∀ t, (u.tower t).z = (s.tower t).z) : s.ResetsContexts u :=
  fun t _ hz => absurd (h t) hz

theorem State.configure_resetsContexts (s : State) (t : TowerIx) (c : TowerConfig) :
    s.ResetsContexts (s.configure t c) := by
  refine State.configure_keeps (fun u h t' q => by simpa using h t' q) (fun hz => ?_) (fun _ t' q hz => ?_)
  · refine State.resetsContexts_of_z fun t' => ?_
    rw [State.tower_setTower]
    split
    · next ht => exact ht ▸ hz
    · rfl
  · obtain rfl : t' = t := by
      by_contra ht
      rw [State.resetContexts_tower, State.tower_setTower_of_ne _ _ ht] at hz
      exact hz rfl
    rw [State.resetContexts_tower, State.tower_setTower_same, Tower.z, Tower.reshape_config]
    simp

/-- A taken record configures its tower, and nothing else is done (R11). -/
theorem takeConfigSet_state {p : MasterPort} {args data : List Byte} {s s' : State} {r : Result}
    (h : takeConfigSet p args s = .ok (s', r, data)) : ∃ t c, s' = s.configure t c := by
  unfold takeConfigSet at h
  split at h
  · split at h
    · split at h
      · split at h
        · exact ⟨_, _, (Prod.mk.inj (Except.ok.inj h)).1.symm⟩
        · cases h
      · cases h
    · cases h
  · cases h

theorem exec_configSet_resetsContexts {p : MasterPort} {args : List Byte} {s u : State}
    (h : exec (.configSet p args) s = .next u) : s.ResetsContexts u := by
  rw [exec_configSet] at h
  obtain rfl := Host.Outcome.next.inj h
  refine State.takeRequest_keeps (State.resetsContexts_of_z fun _ => rfl) (fun v p' bytes hv t q => ?_)
    fun s' r data hb => ?_
  · simpa [State.sendReply_ctx] using hv t q
  · obtain ⟨t, c, rfl⟩ := takeConfigSet_state hb
    exact s.configure_resetsContexts t c

/-- A reset context spans its whole tower, its pointer at the end its direction starts from (R15, R24). -/
theorem WriteContext.resetFor_of_names {c : WriteContext} {t : TowerIx} (h : c.tower = t) (z : Nat) :
    (c.resetFor t z).first = 0 ∧ (c.resetFor t z).last = z - 1 ∧
      (c.resetFor t z).pointer = some (if c.direction = .up then 0 else z - 1) := by
  rw [WriteContext.resetFor, if_pos h, WriteContext.placed_eq]
  exact ⟨rfl, rfl, rfl⟩

/-! ### The statements -/

/-- Settles O23: each request that places the pointer answers with `WriteContext.placed`, the three that do not leave the
context, and a change of Z resets it. -/
theorem windowEndIsChosenForPointer : Obligations.WindowEndIsChosenForPointer := by
  refine ⟨fun p t slot b sl f l s hfree hb hsl hfl hl => ?_, fun p b sl f l s hfree h => exec_windowSet_of_range hfree h,
    fun p mode direction mask m d ms s hfree hm hd hlen hmask hfirst hlast => ?_,
    fun p m d ms s hfree hlen h => exec_writeModeSet_of_range hfree hlen h,
    fun fn p args s u hfn h => exec_zones_ctx hfn h, fun args t q s u h hz hq => ?_⟩
  · intro c c'
    have hc : c' = WriteContext.placed { c with tower := t, slot := slot, first := f.toNat, last := l.toNat } := by
      rw [WriteContext.placed_eq]
    rw [hc]
    exact ⟨_, exec_windowSet_of_fields hfree hb (readSlot_of_eq hsl) hfl hl, rfl, rfl,
      WriteContext.contextFields_placed _ _ f.isLt l.isLt⟩
  · intro c c'
    have hmode : readMode m = some mode := by
      rw [hm]
      cases mode <;> rfl
    have hc : c' = WriteContext.placed { c with mode := mode, direction := direction, mask := mask } := by
      rw [WriteContext.placed_eq]
    rw [hc]
    exact ⟨_, exec_writeModeSet_of_fields hfree hmode (readDirection_of_eq hd) hlen hmask, rfl, rfl,
      WriteContext.contextFields_placed _ _ (Nat.lt_of_le_of_lt hfirst (by decide)) (Nat.lt_of_le_of_lt hlast (by decide))⟩
  · rw [exec_configSet_resetsContexts h t q hz]
    exact WriteContext.resetFor_of_names hq _

/-- Settles O25: a fill stores the combined value in each masked-in zone of the window, and only a RUN slot's change is handed
on. -/
theorem zonesFillCombinesByMode : Obligations.ZonesFillCombinesByMode := by
  intro p v s hp hfree hv c tw sl inside hpermits hstore hctx hsl hz body
  obtain ⟨-, hlast, -⟩ := hctx
  have hzone : ∀ z, (c.fill v sl).zone z = if inside z then some (combine c.mode (sl.zone z) (min v 1000)) else sl.zone z :=
    WriteContext.zone_fill (hsl.1.symm ▸ hlast) v
  obtain ⟨hlength, htag, hmirrored⟩ := c.fill_leaves v sl
  have hexec : exec (.zonesFill p (bytes16 v)) s =
      .next ((s.storeSlot c.tower c.slot (c.fill v sl)).sendReply p body) := by
    rw [exec_zonesFill_of_permits hp hfree hv hpermits ((tw.mayStore_iff c.slot).mpr hstore),
      WriteContext.length_filled (Nat.lt_of_lt_of_le hlast hz)]
    rfl
  refine ⟨c.fill v sl, htag, hmirrored, hlength, fun z hin => ?_, fun z hout => ?_, fun hnext => ?_, fun hrun => ?_⟩
  · refine ⟨combine c.mode (sl.zone z) (min v 1000), by rw [hzone, if_pos hin],
      combine_le c.mode (Slot.zone_le hsl z) (Nat.min_le_right v 1000), combine_table c.mode (sl.zone z) (min v 1000)⟩
  · rw [hzone, if_neg hout]
  · rw [hexec, hnext]
    rfl
  · rw [hrun] at hexec
    obtain ⟨htrun, htnext, htconfig⟩ := s.storeSlot_run_tower c.tower (c.fill v sl)
    refine ⟨_, hexec, by simpa using htrun, by simpa using htnext, by simpa using htconfig, by simp [c], by simp,
      fun r hr => ?_, (s.storeSlot_sameBut c.tower .run (c.fill v sl)).sendReply p body⟩
    rw [State.sendReply_port_of_ne _ _ hr, State.storeSlot_port]

/-- Settles O27: ZONES READ sends the window's zones in order, ZONES ABOVE the set of those that pass the threshold. -/
theorem zonesAreReadThroughWindow : Obligations.ZonesAreReadThroughWindow := by
  intro p s hfree c sl hctx hsl hz
  obtain ⟨hfl, hlast, -⟩ := hctx
  have hlastByte : c.last < 256 := by omega
  have hfirstByte : c.first < 256 := by omega
  refine ⟨⟨_, exec_zonesRead_of_free hfree, ?_, rfl, ⟨_, rfl, byteOf_toNat (by omega)⟩, ⟨_, rfl, c.slot.code_toNat⟩,
    ⟨_, rfl, byteOf_toNat hfirstByte⟩, ⟨_, rfl, byteOf_toNat hlastByte⟩, ⟨_, rfl, c.direction.code_toNat⟩,
    fun i hi => ?_⟩, fun threshold hthreshold => ?_⟩
  · rw [List.length_append, length_flatMap_bytesOption16, WriteContext.length_inDirection]
    rfl
  · have hfits : ∀ z ∈ c.inDirection, ∀ n ∈ sl.zone z, n < 65536 := fun z _ n hn =>
      Nat.lt_of_le_of_lt (Slot.zone_le hsl z n hn) (by decide)
    exact (field16_append _ _ _ _).mpr (field16_flatMap_bytesOption16 hfits (c.getElem?_inDirection hi))
  · refine ⟨_, exec_zonesAbove_of_free hfree hthreshold, rfl, rfl,
      (fieldSet_bytes48 [0x95#8, 0x00#8] _).congr fun m hm => ?_⟩
    rw [getLsbD_zoneSet _ hm, Bool.eq_iff_iff]
    simp only [WriteContext.mem_above, Bool.and_eq_true, decide_eq_true_eq, and_assoc]
    rfl

end Sys2Proof.Machine

/-! SUPPORT. Operator trims (R77 to R84): signed fields of a body, the entries of a trim request read from its bytes, and the
trims, the reply and the frame that taking them in order leaves. -/

namespace Sys2Proof.Machine

/-! ### Signed fields of a body (R172) -/

/-- A signed 16-bit field counts down from its unsigned value by 2^16 where its sign bit is set. -/
theorem signed16_eq (a b : Byte) :
    signed16 a b = if a.toNat < 128 then (a.toNat * 256 + b.toNat : Int) else a.toNat * 256 + b.toNat - 65536 := by
  have hnat : (a ++ b : BitVec 16).toNat = a.toNat * 256 + b.toNat := be16_eq a b
  rw [signed16, BitVec.toInt_eq_toNat_cond, hnat]
  split <;> split <;> omega

theorem bytesSigned16_eq {v : Int} (hlo : -32768 ≤ v) (hhi : v ≤ 32767) :
    ∃ a b, bytesSigned16 v = [a, b] ∧ signed16 a b = v := by
  refine ⟨_, _, rfl, ?_⟩
  have hword : (BitVec.ofNat 8 ((BitVec.ofInt 16 v).toNat / 256) ++ BitVec.ofNat 8 (BitVec.ofInt 16 v).toNat : BitVec 16) =
      BitVec.ofInt 16 v := BitVec.eq_of_toNat_eq (be16_bytes (BitVec.isLt _))
  rw [signed16, hword, BitVec.toInt_ofInt_eq_self (by decide) (by omega) (by omega)]

theorem fieldSigned16_iff (body : List Byte) (i : Nat) (v : Int) :
    FieldSigned16 body i v ↔ (body[i]?.bind fun b1 => body[i + 1]?.map fun b0 => signed16 b1 b0) = some v := by
  simp only [FieldSigned16, Option.bind_eq_some_iff, Option.map_eq_some_iff, signed16_eq]
  constructor
  · rintro ⟨b1, b0, h1, h0, h⟩
    exact ⟨b1, h1, b0, h0, h.symm⟩
  · rintro ⟨b1, h1, b0, h0, h⟩
    exact ⟨b1, b0, h1, h0, h.symm⟩

theorem fieldSigned16_append (front body : List Byte) (i : Nat) (v : Int) :
    FieldSigned16 (front ++ body) (front.length + i) v ↔ FieldSigned16 body i v := by
  simp only [fieldSigned16_iff, Nat.add_assoc, List.getElem?_append_right (Nat.le_add_right _ _), Nat.add_sub_cancel_left]

@[simp] theorem length_bytesSigned16 (v : Int) : (bytesSigned16 v).length = 2 := rfl

theorem length_flatMap_bytesSigned16 (values : List Int) : (values.flatMap bytesSigned16).length = 2 * values.length := by
  rw [List.length_flatMap, List.map_congr_left fun v _ => length_bytesSigned16 v, List.map_const', List.sum_replicate,
    smul_eq_mul, Nat.mul_comm]

/-- The i-th number of a list of signed 16-bit numbers. -/
theorem fieldSigned16_flatMap {values : List Int} (h : ∀ v ∈ values, -32768 ≤ v ∧ v ≤ 32767) {i : Nat} {v : Int}
    (hi : values[i]? = some v) : FieldSigned16 (values.flatMap bytesSigned16) (2 * i) v := by
  induction values generalizing i with
  | nil => cases hi
  | cons w values ih =>
    rw [List.flatMap_cons]
    cases i with
    | zero =>
      obtain rfl : w = v := Option.some.inj hi
      obtain ⟨a, b, hbytes, hab⟩ := bytesSigned16_eq (h w List.mem_cons_self).1 (h w List.mem_cons_self).2
      exact (fieldSigned16_iff _ _ _).mpr (by simp [hbytes, hab])
    | succ i =>
      rw [show 2 * (i + 1) = (bytesSigned16 w).length + 2 * i by rw [length_bytesSigned16]; omega, fieldSigned16_append]
      exact ih (fun a ha => h a (List.mem_cons_of_mem w ha)) hi

/-! ### The entries of a trim request, read from its bytes (R79, R82, R83) -/

theorem readKeyValues_entries {entries : List (Byte × Int)} (h : ∀ e ∈ entries, -32768 ≤ e.2 ∧ e.2 ≤ 32767) :
    readKeyValues (entries.flatMap fun e => e.1 :: bytesSigned16 e.2) = entries.map fun e => (e.1.toNat, e.2) := by
  induction entries with
  | nil => rfl
  | cons e entries ih =>
    obtain ⟨a, b, hbytes, hab⟩ := bytesSigned16_eq (h e List.mem_cons_self).1 (h e List.mem_cons_self).2
    have hrest := ih fun e he => h e (List.mem_cons_of_mem _ he)
    simp [hbytes, readKeyValues, hab, hrest]

/-- The six bits of a count are two's complement (R83). -/
theorem nudgeCount_eq (c : Byte) :
    nudgeCount c = if c.toNat % 64 < 32 then ((c.toNat % 64 : Nat) : Int) else (c.toNat % 64 : Nat) - 64 := by
  rw [nudgeCount, BitVec.toInt_eq_toNat_cond, BitVec.extractLsb'_toNat, Nat.shiftRight_zero]
  split <;> split <;> omega

theorem readKeyCounts_entries (entries : List (Byte × Byte)) :
    readKeyCounts (entries.flatMap fun e => [e.1, e.2]) = entries.map fun e => (e.1.toNat, nudgeCount e.2) := by
  induction entries with
  | nil => rfl
  | cons e entries ih => simp [readKeyCounts, ih]

/-! ### What the entries ask for, one entry at a time (R80, R84) -/

/-- The trim an entry asks for, before its limits: its value, or its count added to the trim as it stands (R80, R84). -/
def trimWanted (add : Bool) (trim x : Int) : Int := if add then trim + x else x

theorem clamp_trim (w : Int) : clamp (-300) 300 w = max (-300) (min 300 w) := by
  unfold clamp
  split
  · omega
  · split <;> omega

theorem trimsAfter_cons (add : Bool) (trim : Nat → Int) (k : Nat) (x : Int) (rest : List (Nat × Int)) :
    trimsAfter add trim ((k, x) :: rest) =
      trimsAfter add (Function.update trim k (clamp (-300) 300 (trimWanted add (trim k) x))) rest := by
  rw [clamp_trim]
  exact congrArg (trimsAfter add · rest) (funext fun j => by simp only [Function.update_apply, trimWanted])

theorem not_trimClamped_nil (add : Bool) (trim : Nat → Int) : ¬trimClamped add trim [] := by
  rintro ⟨i, k, x, hi, -⟩
  cases hi

/-- The first entry asks for a trim outside the limits, or one of the others does, from the trims the first leaves. -/
theorem trimClamped_cons (add : Bool) (trim : Nat → Int) (k : Nat) (x : Int) (rest : List (Nat × Int)) :
    trimClamped add trim ((k, x) :: rest) ↔
      clamp (-300) 300 (trimWanted add (trim k) x) ≠ trimWanted add (trim k) x ∨
        trimClamped add (Function.update trim k (clamp (-300) 300 (trimWanted add (trim k) x))) rest := by
  have hlimits : clamp (-300) 300 (trimWanted add (trim k) x) ≠ trimWanted add (trim k) x ↔
      trimWanted add (trim k) x < -300 ∨ 300 < trimWanted add (trim k) x := by
    rw [ne_eq, clamp_eq_self (by decide)]
    omega
  rw [hlimits]
  constructor
  · rintro ⟨i, k', x', hi, hout⟩
    cases i with
    | zero =>
      obtain ⟨rfl, rfl⟩ := Prod.mk.inj (Option.some.inj hi)
      exact .inl hout
    | succ i =>
      rw [List.take_succ_cons, trimsAfter_cons] at hout
      exact .inr ⟨i, k', x', hi, hout⟩
  · rintro (hout | ⟨i, k', x', hi, hout⟩)
    · exact ⟨0, k, x, rfl, hout⟩
    · refine ⟨i + 1, k', x', hi, ?_⟩
      rw [List.take_succ_cons, trimsAfter_cons]
      exact hout

/-! ### One trim (R78) -/

/-- The fields of a key record that neither a refresh nor the Key Drive Unit writes: trim, accumulator and settle window. -/
def KeyRec.corrections (key : KeyRec) : Int × Int × Sheet := (key.trim, key.acc, key.settleUntil)

theorem KeyRec.corrections_undriven (key : KeyRec) : key.undriven.corrections = key.corrections := rfl

theorem State.trimOf_eq (s : State) (t : TowerIx) (k : Nat) :
    s.trimOf t k = ((s.tower t).keys[k]?.map KeyRec.trim).getD 0 := by
  unfold State.trimOf
  cases (s.tower t).keys[k]? <;> rfl

theorem State.trimOf_of_key {s : State} {t : TowerIx} {k : Nat} {key : KeyRec} (h : (s.tower t).keys[k]? = some key) :
    s.trimOf t k = key.trim := by
  rw [State.trimOf_eq, h]
  rfl

theorem Tower.SamePlates.refl (tw : Tower) : tw.SamePlates tw := ⟨rfl, rfl, rfl, rfl, rfl, rfl⟩

theorem Tower.SamePlates.trans {a b c : Tower} (h : a.SamePlates b) (h' : b.SamePlates c) : a.SamePlates c := by
  obtain ⟨h1, h2, h3, h4, h5, h6⟩ := h
  obtain ⟨g1, g2, g3, g4, g5, g6⟩ := h'
  exact ⟨g1.trans h1, g2.trans h2, g3.trans h3, g4.trans h4, g5.trans h5, g6.trans h6⟩

theorem SameBut.trans {t : TowerIx} {s u w : State} (h : SameBut t s u) (h' : SameBut t u w) : SameBut t s w := by
  obtain ⟨h1, h2, h3, h4, h5, h6⟩ := h
  obtain ⟨g1, g2, g3, g4, g5, g6⟩ := h'
  exact ⟨g1.trans h1, g2.trans h2, g3.trans h3, g4.trans h4, g5.trans h5, fun t' ht => (g6 t' ht).trans (h6 t' ht)⟩

/-- What a trim, changed or not, leaves of the machine (R76, R78). -/
def State.TrimFrame (t : TowerIx) (s u : State) : Prop :=
  (s.tower t).SamePlates (u.tower t) ∧ (u.tower t).keys.length = (s.tower t).keys.length ∧ SameBut t s u ∧
    u.masters = s.masters

theorem State.TrimFrame.refl (t : TowerIx) (s : State) : State.TrimFrame t s s :=
  ⟨.refl _, rfl, ⟨rfl, rfl, rfl, rfl, rfl, fun _ _ => rfl⟩, rfl⟩

theorem State.TrimFrame.trans {t : TowerIx} {s u w : State} (h : State.TrimFrame t s u) (h' : State.TrimFrame t u w) :
    State.TrimFrame t s w := by
  obtain ⟨hplates, hlength, hsame, hmasters⟩ := h
  obtain ⟨hplates', hlength', hsame', hmasters'⟩ := h'
  exact ⟨hplates.trans hplates', hlength'.trans hlength, hsame.trans hsame', hmasters'.trans hmasters⟩

/-- A changed trim is written in its key's record, which is then refreshed alone. -/
theorem State.putTrim_of_ne {s : State} {t : TowerIx} {k : Nat} {v : Int} (h : v ≠ s.trimOf t k) :
    s.putTrim t k v = (s.setTower t ((s.tower t).updateKey k fun key => { key with trim := v })).refresh t [k] false :=
  if_neg h

theorem State.putTrim_self (s : State) (t : TowerIx) (k : Nat) : s.putTrim t k (s.trimOf t k) = s := if_pos rfl

/-- The tower after a changed trim: its key's record written and refreshed, but for what the Key Drive Unit does. -/
theorem State.driveOnly_putTrim {s : State} {t : TowerIx} {k : Nat} {v : Int} (h : v ≠ s.trimOf t k) :
    (((s.tower t).updateKey k fun key => { key with trim := v }).updateKey k
      (((s.tower t).updateKey k fun key => { key with trim := v }).presetKey s.curves k)).DriveOnly
        ((s.putTrim t k v).tower t) := by
  rw [State.putTrim_of_ne h, State.refresh_tower_same, State.tower_setTower_same]
  exact Tower.driveOnly_refreshKey s.curves _ k

theorem State.putTrim_frame (s : State) (t : TowerIx) (k : Nat) (v : Int) : State.TrimFrame t s (s.putTrim t k v) := by
  by_cases h : v = s.trimOf t k
  · rw [h, State.putTrim_self]
    exact .refl t s
  · have hdrive := State.driveOnly_putTrim h
    refine ⟨hdrive.1, by simpa using hdrive.keys_length, ?_, ?_⟩ <;> rw [State.putTrim_of_ne h]
    · exact (s.setTower_sameBut t _).refresh [k] false
    · simp

/-- A trim put in key k is that key's trim; every other key keeps its own, and all keep accumulator and settle window. -/
theorem State.putTrim_corrections (s : State) (t : TowerIx) (k : Nat) (v : Int) (j : Nat) :
    ((s.putTrim t k v).tower t).keys[j]?.map KeyRec.corrections =
      (s.tower t).keys[j]?.map fun key => (if j = k then v else key.trim, key.acc, key.settleUntil) := by
  by_cases h : v = s.trimOf t k
  · rw [h, State.putTrim_self]
    refine Option.map_congr fun key hkey => ?_
    by_cases hj : j = k
    · subst hj
      rw [if_pos rfl, State.trimOf_of_key hkey]
      rfl
    · rw [if_neg hj]
      rfl
  · have hkey := congrArg (Option.map KeyRec.corrections) ((State.driveOnly_putTrim h).key j)
    simp only [Option.map_map, Function.comp_def, KeyRec.corrections_undriven] at hkey
    rw [hkey]
    simp only [Tower.updateKey_keys, List.getElem?_modify]
    cases (s.tower t).keys[j]? with
    | none => rfl
    | some key =>
      by_cases hj : j = k
      · subst hj
        simp [KeyRec.corrections]
      · simp [Ne.symm hj, hj, KeyRec.corrections]

theorem State.trimOf_putTrim {s : State} {t : TowerIx} {k : Nat} (hk : k < (s.tower t).keys.length) (v : Int) :
    (s.putTrim t k v).trimOf t = Function.update (s.trimOf t) k v := by
  funext j
  have hfst := congrArg (fun o => (Option.map Prod.fst o).getD 0) (s.putTrim_corrections t k v j)
  simp only [Option.map_map, Function.comp_def] at hfst
  rw [State.trimOf_eq, Function.update_apply, State.trimOf_eq]
  refine hfst.trans ?_
  by_cases hj : j = k
  · subst hj
    simp [List.getElem?_eq_getElem hk]
  · simp [hj]

/-! ### The entries in order (R80, R81, R84) -/

theorem State.putTrims_cons (t : TowerIx) (wanted : Int → Int → Int) (k : Nat) (x : Int) (rest : List (Nat × Int))
    (s : State) :
    State.putTrims t wanted ((k, x) :: rest) s =
      let v := clamp (-300) 300 (wanted (s.trimOf t k) x)
      let out := State.putTrims t wanted rest (s.putTrim t k v)
      (out.1, decide (v ≠ wanted (s.trimOf t k) x) || out.2.1, v :: out.2.2) := rfl

theorem State.putTrims_frame (t : TowerIx) (wanted : Int → Int → Int) (entries : List (Nat × Int)) (s : State) :
    State.TrimFrame t s (State.putTrims t wanted entries s).1 := by
  induction entries generalizing s with
  | nil => exact .refl t s
  | cons e rest ih =>
    obtain ⟨k, x⟩ := e
    rw [State.putTrims_cons]
    exact (s.putTrim_frame t k _).trans (ih _)

theorem State.putTrims_limits (t : TowerIx) (wanted : Int → Int → Int) (entries : List (Nat × Int)) (s : State) :
    ∀ v ∈ (State.putTrims t wanted entries s).2.2, -300 ≤ v ∧ v ≤ 300 := by
  induction entries generalizing s with
  | nil => exact fun v hv => absurd hv List.not_mem_nil
  | cons e rest ih =>
    obtain ⟨k, x⟩ := e
    rw [State.putTrims_cons]
    intro v hv
    rcases List.mem_cons.mp hv with rfl | hv
    · exact clamp_mem _ (by decide)
    · exact ih _ v hv

theorem State.putTrims_length (t : TowerIx) (wanted : Int → Int → Int) (entries : List (Nat × Int)) (s : State) :
    (State.putTrims t wanted entries s).2.2.length = entries.length := by
  induction entries generalizing s with
  | nil => rfl
  | cons e rest ih =>
    obtain ⟨k, x⟩ := e
    rw [State.putTrims_cons, List.length_cons, List.length_cons, ih]

/-- Every entry names a key of tower t. -/
def State.NamesKeys (s : State) (t : TowerIx) (entries : List (Nat × Int)) : Prop :=
  ∀ e ∈ entries, e.1 < (s.tower t).keys.length

theorem State.NamesKeys.head {s : State} {t : TowerIx} {k : Nat} {x : Int} {rest : List (Nat × Int)}
    (h : s.NamesKeys t ((k, x) :: rest)) : k < (s.tower t).keys.length := h (k, x) List.mem_cons_self

theorem State.NamesKeys.putTrim {s : State} {t : TowerIx} {k : Nat} {x : Int} {rest : List (Nat × Int)}
    (h : s.NamesKeys t ((k, x) :: rest)) (v : Int) : (s.putTrim t k v).NamesKeys t rest := by
  obtain ⟨-, hlength, -, -⟩ := s.putTrim_frame t k v
  exact fun e he => hlength ▸ h e (List.mem_cons_of_mem _ he)

/-- What every key record is left with: its own accumulator and settle window, and the trim its entries make in order. -/
theorem State.putTrims_corrections (add : Bool) {t : TowerIx} {entries : List (Nat × Int)} {s : State}
    (h : s.NamesKeys t entries) (j : Nat) :
    ((State.putTrims t (trimWanted add) entries s).1.tower t).keys[j]?.map KeyRec.corrections =
      (s.tower t).keys[j]?.map fun key => (trimsAfter add (s.trimOf t) entries j, key.acc, key.settleUntil) := by
  induction entries generalizing s with
  | nil => exact Option.map_congr fun key hkey => by rw [trimsAfter, State.trimOf_of_key (s := s) hkey]; rfl
  | cons e rest ih =>
    obtain ⟨k, x⟩ := e
    rw [State.putTrims_cons, trimsAfter_cons, ← State.trimOf_putTrim h.head]
    refine (ih (h.putTrim _)).trans ?_
    have hone := congrArg (Option.map Prod.snd)
      (s.putTrim_corrections t k (clamp (-300) 300 (trimWanted add (s.trimOf t k) x)) j)
    simp only [Option.map_map, Function.comp_def, KeyRec.corrections] at hone
    simpa [Function.comp_def] using congrArg (Option.map (Prod.mk (trimsAfter add _ rest j))) hone

/-- The request is marked as clamped exactly where an entry asks for a trim outside the limits. -/
theorem State.putTrims_clamped (add : Bool) {t : TowerIx} {entries : List (Nat × Int)} {s : State}
    (h : s.NamesKeys t entries) :
    (State.putTrims t (trimWanted add) entries s).2.1 = true ↔ trimClamped add (s.trimOf t) entries := by
  induction entries generalizing s with
  | nil => simpa [State.putTrims] using not_trimClamped_nil add (s.trimOf t)
  | cons e rest ih =>
    obtain ⟨k, x⟩ := e
    rw [State.putTrims_cons, trimClamped_cons, ← State.trimOf_putTrim h.head, ← ih (h.putTrim _)]
    simp

/-- The i-th trim of the reply is the one its key has once the entries up to that one are taken. -/
theorem State.putTrims_values (add : Bool) {t : TowerIx} {entries : List (Nat × Int)} {s : State}
    (h : s.NamesKeys t entries) {i k : Nat} {x : Int} (hi : entries[i]? = some (k, x)) :
    (State.putTrims t (trimWanted add) entries s).2.2[i]? =
      some (trimsAfter add (s.trimOf t) (entries.take (i + 1)) k) := by
  induction entries generalizing s i with
  | nil => cases hi
  | cons e rest ih =>
    obtain ⟨k', x'⟩ := e
    rw [State.putTrims_cons, List.take_succ_cons, trimsAfter_cons, ← State.trimOf_putTrim h.head]
    cases i with
    | zero =>
      obtain ⟨rfl, rfl⟩ := Prod.mk.inj (Option.some.inj hi)
      rw [State.trimOf_putTrim h.head]
      simp [trimsAfter]
    | succ i => exact ih (h.putTrim _) hi

/-! ### The two requests (R79, R82) -/

theorem exec_trimSet (p : MasterPort) (args : List Byte) (s : State) :
    exec (.trimSet p args) s = .next (s.takeRequest p .trimSet args takeTrimSet) := rfl

theorem exec_trimNudge (p : MasterPort) (args : List Byte) (s : State) :
    exec (.trimNudge p args) s = .next (s.takeRequest p .trimNudge args takeTrimNudge) := rfl

theorem takeTrimSet_cons (p : MasterPort) (b : Byte) (args : List Byte) (s : State) :
    takeTrimSet p (b :: args) s = s.takeTrims b (readKeyValues args) (trimWanted false) := rfl

theorem takeTrimNudge_cons (p : MasterPort) (b : Byte) (args : List Byte) (s : State) :
    takeTrimNudge p (b :: args) s = s.takeTrims b (readKeyCounts args) (trimWanted true) := rfl

/-- A list of 1 to 48 entries behind the tower byte fits the layout (R153, R176). -/
theorem listFits_of_count {size k : Nat} (hk : 1 ≤ k ∧ k ≤ 48) : listFits 1 size 48 (1 + size * k) = true := by
  have hlo : size * 1 ≤ size * k := Nat.mul_le_mul_left size hk.1
  have hhi : size * k ≤ size * 48 := Nat.mul_le_mul_left size hk.2
  have hmod : (1 + size * k - 1) % size = 0 := by rw [Nat.add_sub_cancel_left, Nat.mul_mod_right]
  simp only [listFits, hmod, Bool.and_eq_true, decide_eq_true_eq, beq_self_eq_true, and_true]
  omega

/-- A trim request that fits its layout passes the checks before its own steps on the console (R152 to R154). -/
theorem State.earlyRefusal_trimSet (s : State) {args : List Byte} (h : LayoutLength .trimSet args.length) :
    s.earlyRefusal .console .trimSet args = none := by
  obtain ⟨k, hlo, hhi, hlength⟩ := h
  exact State.earlyRefusal_of_no_member (by decide) (hlength ▸ listFits_of_count ⟨hlo, hhi⟩) rfl

theorem State.earlyRefusal_trimNudge (s : State) {args : List Byte} (h : LayoutLength .trimNudge args.length) :
    s.earlyRefusal .console .trimNudge args = none := by
  obtain ⟨k, hlo, hhi, hlength⟩ := h
  exact State.earlyRefusal_of_no_member (by decide) (hlength ▸ listFits_of_count ⟨hlo, hhi⟩) rfl

theorem layoutLength_trimSet (b : Byte) {entries : List (Byte × Int)} (hlo : 1 ≤ entries.length)
    (hhi : entries.length ≤ 48) :
    LayoutLength .trimSet (b :: entries.flatMap fun e => e.1 :: bytesSigned16 e.2).length := by
  refine ⟨entries.length, hlo, hhi, ?_⟩
  simp [List.length_flatMap]
  omega

theorem layoutLength_trimNudge (b : Byte) {entries : List (Byte × Byte)} (hlo : 1 ≤ entries.length)
    (hhi : entries.length ≤ 48) : LayoutLength .trimNudge (b :: entries.flatMap fun e => [e.1, e.2]).length := by
  refine ⟨entries.length, hlo, hhi, ?_⟩
  simp [List.length_flatMap]
  omega

/-- A trim request of a tower above 11, or of a key of Z or more, is refused whole (R155). -/
theorem State.takeTrims_of_range {s : State} {b : Byte} {entries : List (Nat × Int)} {wanted : Int → Int → Int}
    (h : ∀ t, readTower b = some t → ∃ e ∈ entries, (s.tower t).z ≤ e.1) :
    s.takeTrims b entries wanted = .error .range := by
  unfold State.takeTrims
  cases hb : readTower b with
  | none => rfl
  | some t =>
    obtain ⟨e, he, hz⟩ := h t hb
    exact if_neg fun hall => absurd (of_decide_eq_true (List.all_eq_true.mp hall e he)) (Nat.not_lt.mpr hz)

theorem State.takeTrims_of_keys {s : State} {b : Byte} {t : TowerIx} {entries : List (Nat × Int)}
    (wanted : Int → Int → Int) (hb : b.toNat = t.val) (h : ∀ e ∈ entries, e.1 < (s.tower t).z) :
    s.takeTrims b entries wanted =
      .ok ((State.putTrims t wanted entries s).1, clampResult (State.putTrims t wanted entries s).2.1,
        b :: (State.putTrims t wanted entries s).2.2.flatMap bytesSigned16) := by
  unfold State.takeTrims
  rw [readTower_of_toNat hb]
  exact if_pos (List.all_eq_true.mpr fun e he => decide_eq_true (h e he))

theorem State.sendReply_cursor (s : State) (p q : MasterPort) (body : List Byte) :
    ((s.sendReply p body).port q).cursor = (s.port q).cursor := by
  by_cases h : q = p
  · subst h
    simp
  · rw [State.sendReply_port_of_ne _ _ h]

/-- What an accepted trim request makes of the state s: the trims its entries make in order, everything else of the tower but
what a refresh may write, the rest of the machine, and the reply. -/
def TrimsTaken (add : Bool) (code : Byte) (t : TowerIx) (b : Byte) (entries : List (Nat × Int)) (s u : State) : Prop :=
  let trimOf := fun (k : Nat) => (((s.tower t).keys[k]?.map KeyRec.trim).getD 0)
  (∀ k key, (s.tower t).keys[k]? = some key → ∃ key' : KeyRec, (u.tower t).keys[k]? = some key' ∧
    key'.trim = trimsAfter add trimOf entries k ∧ key'.acc = key.acc ∧ key'.settleUntil = key.settleUntil) ∧
  (u.tower t).keys.length = (s.tower t).keys.length ∧ (s.tower t).SamePlates (u.tower t) ∧ SameBut t s u ∧
  (∀ q, (u.port q).ctx = (s.port q).ctx ∧ (u.port q).cursor = (s.port q).cursor) ∧
  ∃ body r, (u.port .console).reply = some body ∧ body.length = 3 + 2 * entries.length ∧ body.take 3 = [code, r, b] ∧
    (trimClamped add trimOf entries → r = 0x01#8) ∧ (¬trimClamped add trimOf entries → r = 0x00#8) ∧
    ∀ i k x, entries[i]? = some (k, x) →
      FieldSigned16 body (3 + 2 * i) (trimsAfter add trimOf (entries.take (i + 1)) k)

theorem State.port_of_masters {s u : State} (h : u.masters = s.masters) (q : MasterPort) : u.port q = s.port q := by
  cases q <;> simp only [State.port, h]

/-- The entries taken in order and the trims they left sent back are what the rules ask of an accepted request. -/
theorem State.trimsTaken (add : Bool) (code : Byte) {t : TowerIx} (b : Byte) {entries : List (Nat × Int)} {s : State}
    (h : s.NamesKeys t entries) :
    let out := State.putTrims t (trimWanted add) entries s
    TrimsTaken add code t b entries s
      (out.1.sendReply .console (code :: (clampResult out.2.1).code :: b :: out.2.2.flatMap bytesSigned16)) := by
  intro out
  have htrim : (fun k => ((s.tower t).keys[k]?.map KeyRec.trim).getD 0) = s.trimOf t :=
    funext fun k => (s.trimOf_eq t k).symm
  obtain ⟨hplates, hlength, hsame, hmasters⟩ := State.putTrims_frame t (trimWanted add) entries s
  have hclamped : out.2.1 = true ↔ _ := State.putTrims_clamped add h
  unfold TrimsTaken
  rw [htrim]
  refine ⟨fun k key hkey => ?_, by simpa using hlength, by simpa using hplates, hsame.sendReply _ _, fun q => ?_,
    _, _, by rw [State.sendReply_port_same], ?_, rfl, fun hc => ?_, fun hc => ?_, fun i k x hi => ?_⟩
  · have hfields := State.putTrims_corrections add h k
    rw [hkey] at hfields
    obtain ⟨key', hkey', heq⟩ := Option.map_eq_some_iff.mp hfields
    obtain ⟨htrim', hacc, hsettle⟩ : key'.trim = _ ∧ key'.acc = _ ∧ key'.settleUntil = _ := by
      simpa [KeyRec.corrections] using heq
    exact ⟨key', by simpa using hkey', htrim', hacc, hsettle⟩
  · rw [State.sendReply_ctx, State.sendReply_cursor, State.port_of_masters hmasters]
    exact ⟨rfl, rfl⟩
  · have hvalues : out.2.2.length = entries.length := State.putTrims_length t _ entries s
    simp only [List.length_cons, length_flatMap_bytesSigned16, hvalues]
    omega
  · rw [code_clampResult, if_pos (hclamped.mpr hc)]
  · rw [code_clampResult, if_neg (mt hclamped.mp hc)]
  · have hlimits : ∀ v ∈ out.2.2, -32768 ≤ v ∧ v ≤ 32767 := fun v hv => by
      have := State.putTrims_limits t _ entries s v hv
      omega
    exact (fieldSigned16_append [code, _, b] _ _ _).mpr
      (fieldSigned16_flatMap hlimits (State.putTrims_values add h hi))

section Accepted

variable {s : State} {t : TowerIx} {b : Byte} (hfree : s.busy .console = false)
include hfree

/-- A trim request whose keys the tower has is accepted, and its entries are taken in order. -/
theorem State.takeRequest_trims {fn : MasterFn} {args : List Byte} {body : MasterPort → List Byte → State → Taken}
    {add : Bool} {entries : List (Nat × Int)} (hearly : s.earlyRefusal .console fn args = none)
    (hbody : body .console args s = s.takeTrims b entries (trimWanted add)) (hb : b.toNat = t.val)
    (hz : (s.tower t).keys.length = (s.tower t).z) (hkeys : ∀ e ∈ entries, e.1 < (s.tower t).z) :
    TrimsTaken add (replyByte fn.code) t b entries s (s.takeRequest .console fn args body) := by
  rw [State.takeRequest_ok hfree hearly (hbody.trans (State.takeTrims_of_keys _ hb hkeys))]
  exact State.trimsTaken add _ b fun e he => hz ▸ hkeys e he

/-- A TRIM SET that names no tower, or a key its tower does not have, is refused. -/
theorem exec_trimSet_of_range {args : List Byte} (hlength : LayoutLength .trimSet (args.length + 1))
    (h : ∀ t, readTower b = some t → ∃ e ∈ readKeyValues args, (s.tower t).z ≤ e.1) :
    exec (.trimSet .console (b :: args)) s = .next (s.sendReply .console [0xB6#8, 0x07#8]) := by
  rw [exec_trimSet, State.takeRequest_error hfree (s.earlyRefusal_trimSet (args := b :: args) hlength)
    ((takeTrimSet_cons ..).trans (State.takeTrims_of_range h))]
  rfl

/-- A TRIM NUDGE that names no tower, or a key its tower does not have, is refused. -/
theorem exec_trimNudge_of_range {args : List Byte} (hlength : LayoutLength .trimNudge (args.length + 1))
    (h : ∀ t, readTower b = some t → ∃ e ∈ readKeyCounts args, (s.tower t).z ≤ e.1) :
    exec (.trimNudge .console (b :: args)) s = .next (s.sendReply .console [0xB7#8, 0x07#8]) := by
  rw [exec_trimNudge, State.takeRequest_error hfree (s.earlyRefusal_trimNudge (args := b :: args) hlength)
    ((takeTrimNudge_cons ..).trans (State.takeTrims_of_range h))]
  rfl

end Accepted

/-! ### The statement -/

/-- Settles O36: both requests take their entries by `State.putTrims`, whose trims, values and mark follow the entries one at a
time; only the reading of the bytes differs. -/
theorem trimsAreTakenInOrder : Obligations.TrimsAreTakenInOrder := by
  refine ⟨fun b args s hfree hb => ?_, fun t b entries s hfree hb hlo hhi hvalues hz _ => ?_,
    fun t b entries s hfree hb hlo hhi hz _ => ?_⟩
  · have hnone : ∀ (l : List (Nat × Int)) t, readTower b = some t → ∃ e ∈ l, (s.tower t).z ≤ e.1 := fun l t ht => by
      rw [readTower_none hb] at ht
      cases ht
    exact ⟨fun hlength => exec_trimSet_of_range hfree hlength (hnone _),
      fun hlength => exec_trimNudge_of_range hfree hlength (hnone _)⟩
  · have hlength := layoutLength_trimSet b hlo hhi
    have hread := readKeyValues_entries hvalues
    refine ⟨fun hkeys => ⟨_, exec_trimSet .., State.takeRequest_trims hfree (s.earlyRefusal_trimSet hlength)
      ((takeTrimSet_cons ..).trans (by rw [hread])) hb hz (List.forall_mem_map.mpr hkeys)⟩, fun ⟨e, he, hout⟩ => ?_⟩
    refine exec_trimSet_of_range hfree hlength fun t' ht' => ?_
    obtain rfl : t = t' := Option.some.inj ((readTower_of_toNat hb).symm.trans ht')
    exact ⟨_, hread ▸ List.mem_map_of_mem he, hout⟩
  · have hlength := layoutLength_trimNudge b hlo hhi
    have hread := readKeyCounts_entries entries
    simp only [nudgeCount_eq] at hread
    refine ⟨fun hkeys => ⟨_, exec_trimNudge .., State.takeRequest_trims hfree (s.earlyRefusal_trimNudge hlength)
      ((takeTrimNudge_cons ..).trans (by rw [hread])) hb hz (List.forall_mem_map.mpr hkeys)⟩, fun ⟨e, he, hout⟩ => ?_⟩
    refine exec_trimNudge_of_range hfree hlength fun t' ht' => ?_
    obtain rfl : t = t' := Option.some.inj ((readTower_of_toNat hb).symm.trans ht')
    exact ⟨_, hread ▸ List.mem_map_of_mem he, hout⟩

end Sys2Proof.Machine

/-! SUPPORT. Requests that name a tower alone (R106), and DISENGAGE (R110): what taking every key of the move queue out of it
leaves of a tower. -/

namespace Sys2Proof.Machine

/-! ### Requests that name a tower alone (R106) -/

theorem takeTowerOnly_of_tower {b : Byte} {t : TowerIx} (h : b.toNat = t.val) (rule : TowerIx → Taken) :
    takeTowerOnly [b] rule = rule t := by
  simp [takeTowerOnly, readTower_of_toNat h]

theorem takeTowerOnly_of_range {b : Byte} (h : 12 ≤ b.toNat) (rule : TowerIx → Taken) :
    takeTowerOnly [b] rule = .error .range := by
  simp [takeTowerOnly, readTower_none h]

/-! ### The keys that leave the queue (R110) -/

/-- The key record once its key has left the queue. -/
def KeyRec.idled (key : KeyRec) : KeyRec := { key with drive := key.drive.toIdle }

theorem KeyRec.idled_eq_self {key : KeyRec} (h : key.drive.state ≠ .queued) : key.idled = key := by
  obtain ⟨drive, target, effective, trim, acc, settleUntil⟩ := key
  cases drive with
  | queued position => exact absurd rfl h
  | unknown | idle _ | moving _ _ _ | faulted _ _ => rfl

/-- A key that has left the queue does not leave it again. -/
@[simp] theorem KeyRec.idled_idled (key : KeyRec) : key.idled.idled = key.idled :=
  KeyRec.idled_eq_self (by cases h : key.drive <;> simp [KeyRec.idled, Drive.toIdle, Drive.state, h])

theorem Tower.dequeue_eq (tw : Tower) (k : Nat) :
    tw.dequeue k = { tw with keys := tw.keys.modify k KeyRec.idled, queue := tw.queue.filter (· != k) } := rfl

/-- Taking keys out of the queue one by one changes nothing of the tower but its key records and its queue. -/
theorem Tower.foldl_dequeue_frame (ks : List Nat) (tw : Tower) :
    let out := ks.foldl Tower.dequeue tw
    out = { tw with keys := out.keys, queue := out.queue } := by
  induction ks generalizing tw with
  | nil => rfl
  | cons k ks ih => exact ih (tw.dequeue k)

/-- Each key taken out of the queue is idled; every other key is as it was. -/
theorem Tower.getElem?_foldl_dequeue (ks : List Nat) (tw : Tower) (j : Nat) :
    (ks.foldl Tower.dequeue tw).keys[j]? =
      tw.keys[j]?.map fun key => if j ∈ ks then key.idled else key := by
  induction ks generalizing tw with
  | nil => simp
  | cons k ks ih =>
    rw [List.foldl_cons, ih, Tower.dequeue_eq]
    by_cases hj : j = k
    · subst hj
      simp [Function.comp_def]
    · simp [getElem?_modify_ne _ _ hj, hj]

/-- A key outside a sound queue is not QUEUED, so idling it changes nothing (R124). -/
theorem Tower.QueueSound.idled_eq_self {tw : Tower} (h : tw.QueueSound) {k : Nat} {key : KeyRec}
    (hkey : tw.keys[k]? = some key) (hk : k ∉ tw.queue) : key.idled = key := by
  obtain ⟨-, hmem, -, -⟩ := h
  refine KeyRec.idled_eq_self fun hqueued => hk ((hmem k).mpr ?_)
  simp [Tower.isQueued, hkey, hqueued]

/-- Emptying a sound queue idles exactly the QUEUED keys, so it acts on every key record alike. -/
theorem Tower.QueueSound.foldl_dequeue_keys {tw : Tower} (h : tw.QueueSound) (st : TowerState) :
    (tw.queue.foldl Tower.dequeue { tw with state := st }).keys = tw.keys.map KeyRec.idled := by
  apply List.ext_getElem?
  intro j
  rw [Tower.getElem?_foldl_dequeue, List.getElem?_map]
  refine Option.map_congr fun key hkey => ?_
  split
  · rfl
  · next hj => exact (h.idled_eq_self hkey hj).symm

/-! ### DISENGAGE (R110) -/

theorem Tower.QueueSound.disengage_eq {tw : Tower} (h : tw.QueueSound) :
    tw.disengage = { tw with state := .dark, queue := [], lastSweep := none, keys := tw.keys.map KeyRec.idled } := by
  rw [Tower.disengage, Tower.foldl_dequeue_frame, h.foldl_dequeue_keys]

theorem exec_disengage (p : MasterPort) (args : List Byte) (s : State) :
    exec (.disengage p args) s = .next (s.takeRequest p .disengage args takeDisengage) := rfl

/-- DISENGAGE with its one byte is permitted on the console. -/
theorem State.earlyRefusal_disengage (s : State) (b : Byte) : s.earlyRefusal .console .disengage [b] = none :=
  State.earlyRefusal_of_no_member (by decide) rfl rfl

theorem exec_disengage_of_tower {b : Byte} {t : TowerIx} {s : State} (hb : b.toNat = t.val)
    (hfree : s.busy .console = false) :
    exec (.disengage .console [b]) s =
      .next ((s.setTower t (s.tower t).disengage).sendReply .console [0xB2#8, 0x00#8]) := by
  rw [exec_disengage, State.takeRequest_ok hfree (s.earlyRefusal_disengage b) (takeTowerOnly_of_tower hb _)]
  rfl

theorem exec_disengage_of_range {b : Byte} {s : State} (hb : 12 ≤ b.toNat) (hfree : s.busy .console = false) :
    exec (.disengage .console [b]) s = .next (s.sendReply .console [0xB2#8, 0x07#8]) := by
  rw [exec_disengage, State.takeRequest_error hfree (s.earlyRefusal_disengage b) (takeTowerOnly_of_range hb _)]
  rfl

/-! ### The statement -/

/-- Settles O45: a sound queue holds exactly the QUEUED keys, so taking its keys out one by one idles just those. -/
theorem disengageEmptiesQueue : Obligations.DisengageEmptiesQueue := by
  refine ⟨fun t b s hfree hb hqueue => ?_, fun b s hfree hb => exec_disengage_of_range hb hfree⟩
  rw [exec_disengage_of_tower hb hfree, hqueue.disengage_eq]
  rfl

end Sys2Proof.Machine

/-! SUPPORT. The function and rank checks (R151, R152): what a code that names no function and a port of too low a rank are
answered, and that nothing after these checks answers UNKNOWN or RANK. -/

namespace Sys2Proof.Machine

/-! ### Functions and codes (R173) -/

/-- The function a code names has that code. -/
theorem code_of_ofCode {code : Byte} {fn : MasterFn} (h : MasterFn.ofCode code = some fn) : fn.code = code := by
  unfold MasterFn.ofCode at h
  split at h
  all_goals cases h
  all_goals exact BitVec.eq_of_toNat_eq (Eq.symm ‹_›)

theorem ofCode_of_names_none {code : Byte} (h : ∀ fn : MasterFn, fn.code ≠ code) : MasterFn.ofCode code = none :=
  Option.eq_none_iff_forall_ne_some.mpr fun fn hfn => h fn (code_of_ofCode hfn)

/-- A request is taken with the steps of its own function (R151). -/
theorem exec_command (fn : MasterFn) (p : MasterPort) (args : List Byte) (s : State) :
    exec (fn.command p args) s = .next (s.takeRequest p fn args (takeFunction fn)) := by
  cases fn <;> rfl

theorem exec_unknownFunction (p : MasterPort) (code : Byte) (args : List Byte) (s : State) :
    exec (.unknownFunction p code args) s = .next (s.takeFrame p code args) := rfl

theorem State.takeFrame_of_names_none {s : State} {p : MasterPort} {code : Byte} (hfree : s.busy p = false)
    (h : ∀ fn : MasterFn, fn.code ≠ code) (args : List Byte) :
    s.takeFrame p code args = s.sendReply p [replyByte code, Result.unknown.code] := by
  simp [State.takeFrame, ofCode_of_names_none h, hfree]

/-! ### The rank table (R152) -/

theorem mem_consoleFunctions (fn : MasterFn) : fn ∈ consoleFunctions ↔ requiredRank fn = 0 := by
  cases fn <;> decide

theorem mem_storeFunctions (fn : MasterFn) : fn ∈ storeFunctions ↔ requiredRank fn = 1 := by
  cases fn <;> decide

/-- The rank table lets a port send a function where its rank number is not above the required one. -/
theorem rankAllows_iff (p : MasterPort) (fn : MasterFn) : RankAllows p fn ↔ portRank p ≤ requiredRank fn := by
  unfold RankAllows
  rw [mem_consoleFunctions, mem_storeFunctions]
  cases p with
  | console => simp [portRank]
  | plate => simp [portRank]; omega
  | scanner => simp [portRank]; omega

theorem State.earlyRefusal_of_rank {p : MasterPort} {fn : MasterFn} (h : ¬portRank p ≤ requiredRank fn) (s : State)
    (args : List Byte) : s.earlyRefusal p fn args = some .rank :=
  if_pos (Nat.not_le.mp h)

/-! ### Results after the rank check (R151) -/

/-- A result that a request can have from the length check on. -/
def Result.afterRank : Result → Bool
  | .frame | .unknown | .rank => false
  | .ok | .okClamped | .length | .denied | .range | .state | .busy | .notReady | .incomplete | .order => true

/-- The result of what steps 6 to 8 make of a request. -/
def takenResult : Taken → Result
  | .error r => r
  | .ok (_, r, _) => r

theorem Result.code_of_afterRank {r : Result} (h : r.afterRank = true) : r.code ≠ 0x04#8 ∧ r.code ≠ 0x03#8 := by
  cases r with
  | frame | unknown | rank => cases h
  | ok | okClamped | length | denied | range | state | busy | notReady | incomplete | order => decide

theorem afterRank_clampResult (b : Bool) : (clampResult b).afterRank = true := by cases b <;> rfl

/-- The result that answers a request: the early refusal's, or its own steps'. -/
theorem State.takeRequest_reply {s : State} {p : MasterPort} (hfree : s.busy p = false) (fn : MasterFn)
    (args : List Byte) (body : MasterPort → List Byte → State → Taken) :
    ∃ data, ((s.takeRequest p fn args body).port p).reply =
      some (replyByte fn.code :: ((s.earlyRefusal p fn args).getD (takenResult (body p args s))).code :: data) := by
  cases he : s.earlyRefusal p fn args with
  | some r => exact ⟨[], by rw [State.takeRequest_early hfree he, State.sendReply_port_same]; rfl⟩
  | none =>
    cases hb : body p args s with
    | error r => exact ⟨[], by rw [State.takeRequest_error hfree he hb, State.sendReply_port_same]; rfl⟩
    | ok out => exact ⟨out.2.2, by rw [State.takeRequest_ok hfree he hb, State.sendReply_port_same]; rfl⟩

/-- A port of a rank that is allowed is refused by the length check or the access check. -/
theorem State.earlyRefusal_afterRank {s : State} {p : MasterPort} {fn : MasterFn} {args : List Byte} {r : Result}
    (hrank : portRank p ≤ requiredRank fn) (h : s.earlyRefusal p fn args = some r) : r.afterRank = true := by
  rw [State.earlyRefusal, if_neg (Nat.not_lt.mpr hrank)] at h
  split at h
  · obtain rfl := Option.some.inj h
    rfl
  · split at h
    · obtain rfl := Option.some.inj h
      rfl
    · cases h

/-! ### Results of the functions' own steps (R155, R156) -/

theorem takeTowerOnly_afterRank {rule : TowerIx → Taken} (h : ∀ t, (takenResult (rule t)).afterRank = true)
    (args : List Byte) : (takenResult (takeTowerOnly args rule)).afterRank = true := by
  unfold takeTowerOnly
  split
  · split
    · exact h _
    · rfl
  · rfl

theorem State.takeTrims_afterRank (s : State) (b : Byte) (entries : List (Nat × Int)) (wanted : Int → Int → Int) :
    (takenResult (s.takeTrims b entries wanted)).afterRank = true := by
  unfold State.takeTrims
  split
  · split
    · exact afterRank_clampResult _
    · rfl
  · rfl

/-- The words of a CURVE PUT end with OK, or with the RANGE or ORDER of the word that fails (R48, R49). -/
theorem State.putWords_afterRank (p : MasterPort) (words : List Nat) (n : Nat) (s : State) :
    (State.putWords p words n s).2.1.afterRank = true := by
  induction words generalizing n s with
  | nil => rfl
  | cons w rest ih =>
    unfold State.putWords
    simp only
    split
    · rfl
    · split
      · exact ih ..
      · split
        · rfl
        · exact ih ..

theorem takeEngage_afterRank (p : MasterPort) (args : List Byte) (s : State) :
    (takenResult (takeEngage p args s)).afterRank = true := by
  refine takeTowerOnly_afterRank (fun t => ?_) args
  simp only
  split_ifs <;> rfl

theorem takeHold_afterRank (p : MasterPort) (args : List Byte) (s : State) :
    (takenResult (takeHold p args s)).afterRank = true := by
  refine takeTowerOnly_afterRank (fun t => ?_) args
  split <;> rfl

theorem takeRelease_afterRank (p : MasterPort) (args : List Byte) (s : State) :
    (takenResult (takeRelease p args s)).afterRank = true := by
  refine takeTowerOnly_afterRank (fun t => ?_) args
  simp only
  split
  · rfl
  · rfl
  · rfl
  · split <;> rfl

theorem takeZonesWrite_afterRank (p : MasterPort) (args : List Byte) (s : State) :
    (takenResult (takeZonesWrite p args s)).afterRank = true := by
  simp only [takeZonesWrite]
  split
  · exact afterRank_clampResult _
  · rfl

theorem takeZonesFill_afterRank (p : MasterPort) (args : List Byte) (s : State) :
    (takenResult (takeZonesFill p args s)).afterRank = true := by
  unfold takeZonesFill
  split
  · simp only
    split
    · exact afterRank_clampResult _
    · rfl
  · rfl

theorem takeMeasure_afterRank (p : MasterPort) (args : List Byte) (s : State) :
    (takenResult (takeMeasure p args s)).afterRank = true := by
  unfold takeMeasure
  split
  · simp only
    split
    · split
      · exact afterRank_clampResult _
      · rfl
    · rfl
  · rfl

theorem takeConfigSet_afterRank (p : MasterPort) (args : List Byte) (s : State) :
    (takenResult (takeConfigSet p args s)).afterRank = true := by
  unfold takeConfigSet
  split
  · split
    · split
      · split
        · exact afterRank_clampResult _
        · rfl
      · rfl
    · rfl
  · rfl

/-- No function's own steps answer UNKNOWN or RANK. The functions of the last group clamp nothing: each of their branches
is a refusal or an OK. -/
theorem takeFunction_afterRank (fn : MasterFn) (p : MasterPort) (args : List Byte) (s : State) :
    (takenResult (takeFunction fn p args s)).afterRank = true := by
  cases fn with
  | identify | sheetGet | zonesRead | restart => rfl
  | engage => exact takeEngage_afterRank p args s
  | disengage => exact takeTowerOnly_afterRank (fun _ => rfl) args
  | hold => exact takeHold_afterRank p args s
  | release => exact takeRelease_afterRank p args s
  | zonesWrite => exact takeZonesWrite_afterRank p args s
  | zonesFill => exact takeZonesFill_afterRank p args s
  | measure => exact takeMeasure_afterRank p args s
  | configSet => exact takeConfigSet_afterRank p args s
  | curvePut => exact State.putWords_afterRank p (readWords args) 0 s
  | trimSet | trimNudge =>
    cases args with
    | nil => rfl
    | cons b entries => exact s.takeTrims_afterRank ..
  | towerStatus | keyStatus | configGet | faultsTake | windowSet | writeModeSet | zonesAbove | slotClear | slotTagSet
  | curveSelect | curveGet | curveClear | jobChange | clearKeyFault | accessSet =>
    simp only [takeFunction, takeTowerStatus, takeKeyStatus, takeConfigGet, takeFaultsTake, takeWindowSet, takeWriteModeSet,
      takeZonesAbove, takeSlotClear, takeSlotTagSet, takeCurveSelect, takeCurveGet, takeCurveClear, takeJobChange,
      takeClearKeyFault, takeAccessSet]
    repeat' split
    all_goals rfl

/-- A request that its port's rank allows is answered with a result of a later check or of its own steps. -/
theorem State.takeRequest_afterRank {s : State} {p : MasterPort} {fn : MasterFn} (hfree : s.busy p = false)
    (hrank : portRank p ≤ requiredRank fn) (args : List Byte) :
    ∃ (r : Result) (data : List Byte),
      ((s.takeRequest p fn args (takeFunction fn)).port p).reply = some (replyByte fn.code :: r.code :: data) ∧
        r.afterRank = true := by
  obtain ⟨data, hreply⟩ := State.takeRequest_reply hfree fn args (takeFunction fn)
  refine ⟨_, data, hreply, ?_⟩
  cases he : s.earlyRefusal p fn args with
  | none => exact takeFunction_afterRank fn p args s
  | some r => exact State.earlyRefusal_afterRank hrank he

/-! ### The statement -/

/-- Settles O11: the rank table is the comparison of ranks, which is the first check of a request, and no later check or step
answers RANK or UNKNOWN. -/
theorem functionAndRankChecks : Obligations.FunctionAndRankChecks := by
  refine ⟨fun p code args s hfree hnone => ?_, ?_, fun fn p args s hfree hrank => ?_, fun fn p args s hfree hrank => ?_⟩
  · rw [exec_unknownFunction, State.takeFrame_of_names_none hfree hnone]
    rfl
  · intro code hcode fn
    revert code
    cases fn <;> decide
  · rw [rankAllows_iff] at hrank
    rw [exec_command, State.takeRequest_early hfree (State.earlyRefusal_of_rank hrank s args)]
    rfl
  · obtain ⟨r, data, hreply, hafter⟩ := State.takeRequest_afterRank hfree ((rankAllows_iff p fn).mp hrank) args
    exact ⟨_, _, r.code, data, exec_command fn p args s, hreply, Result.code_of_afterRank hafter⟩

end Sys2Proof.Machine

/-! SUPPORT. IDENTIFY (R168): its reply is one fixed body, which no check of the request can replace. -/

namespace Sys2Proof.Machine

/-- IDENTIFY without argument bytes passes every early check on every port: its required rank is the scanner's (R152), its
body has no more bytes (R153), and the access check names no member for it (R154). -/
theorem State.earlyRefusal_identify (s : State) (p : MasterPort) : s.earlyRefusal p .identify [] = none :=
  State.earlyRefusal_of_no_member (portRank_le_two p) rfl rfl

/-- The fixed values in the order of R168: vendor, part, revision, towers, keys, curves and points. -/
theorem identityBytes_eq :
    identityBytes = [0x5A#8, 0x4B#8, 0x0C#8, 0x12#8, 0x01#8, 12#8, 48#8, 16#8, 12#8] := by
  decide

/-! ### The statement -/

/-- Settles O6: no early check refuses IDENTIFY, and its own steps leave the state as it is and answer OK with bytes that
read nothing of it. -/
theorem identifyReturnsFixedValues : Obligations.IdentifyReturnsFixedValues := by
  intro p s hfree
  have htake : takeFunction .identify p [] s = .ok (s, .ok, identityBytes) := rfl
  have hexec := exec_command .identify p [] s
  rw [State.takeRequest_ok hfree (s.earlyRefusal_identify p) htake, identityBytes_eq] at hexec
  exact hexec

end Sys2Proof.Machine

/-! SUPPORT. What one step can do, said once (R159): every command leaves the state by a chain of events, each with what the
checks before it guarantee. The invariants that every step keeps are proved event by event. -/

namespace Sys2Proof.Machine

/-! ### Events of one tower -/

/-- Every known position lies within 0..65535 (R123). -/
def Tower.PositionsSound (tw : Tower) : Prop := ∀ key ∈ tw.keys, ∀ q ∈ key.drive.position, q ≤ 65535

/-- A framer's timer runs exactly outside HUNT (R146, R147, R143). -/
def Framer.Sound (f : Framer) : Prop := f.timer = true ↔ f.phase ≠ .hunt

/-- The settle window of key k opened at the end of its move (R93). -/
def Tower.settleKey (tw : Tower) (k : Nat) (sheet : Sheet) : Tower :=
  tw.updateKey k fun key => { key with settleUntil := sheet }

/-- What a line event, a report, an expiry or a request that touches no plate and no record makes of one tower. -/
inductive Tower.Event (tw : Tower) : Tower → Prop where
  | framer (f : Framer) (hf : tw.port.framer.Sound → f.Sound) : tw.Event (tw.setFramer f)
  | sent : tw.Event { tw with port := tw.port.sent }
  | stands (k position : Nat) (hk : tw.states[k]? = some .unknown ∨ tw.states[k]? = some .idle) (hp : position ≤ 65535) :
      tw.Event (tw.standsAt k position)
  | queuedAt (k position : Nat) (hk : tw.states[k]? = some .queued) (hp : position ≤ 65535) :
      tw.Event (tw.queuedAt k position)
  | movesOn (k position target timeout : Nat) (hk : tw.states[k]? = some .moving) (hp : position ≤ 65535) :
      tw.Event (tw.setDrive k (.moving position target timeout))
  | faults (k : Nat) (kind : KeyFault) (p : Option Nat)
      (hk : tw.states[k]? = some .unknown ∨ tw.states[k]? = some .idle ∨ tw.states[k]? = some .faulted)
      (hp : ∀ q ∈ p, q ≤ 65535) : tw.Event (tw.setDrive k (.faulted kind p))
  | queuedFaults (k : Nat) (kind : KeyFault) (p : Option Nat) (hk : tw.states[k]? = some .queued)
      (hp : ∀ q ∈ p, q ≤ 65535) : tw.Event ((tw.dequeue k).setDrive k (.faulted kind p)).drainCheck
  | movingFaults (k : Nat) (kind : KeyFault) (p : Option Nat) (hk : tw.states[k]? = some .moving)
      (hp : tw.PositionsSound → ∀ q ∈ p, q ≤ 65535) : tw.Event (tw.endMove k (.faulted kind p)).afterMove
  | stopsShort (k position : Nat) (sheet : Sheet) (hk : tw.states[k]? = some .moving) (hp : position ≤ 65535) :
      tw.Event ((tw.endMove k (.faulted .short (some position))).settleKey k sheet).afterMove
  | arrives (k position : Nat) (sheet : Sheet) (hk : tw.states[k]? = some .moving) (hp : position ≤ 65535) :
      tw.Event (((tw.endMove k (.idle position)).settleKey k sheet).requeue k).afterMove
  | surveys (ks : List Nat) (hks : ∀ k ∈ ks, tw.states[k]? = some .faulted) : tw.Event (tw.surveyAll ks)
  | engage (sheets : Sheet) (hs : tw.state = .dark) (hr : tw.run.complete = true) : tw.Event (tw.engage sheets)
  | disengage : tw.Event tw.disengage
  | hold (hs : tw.running = true) : tw.Event { tw with state := .held }
  | release (hs : tw.state = .held) (hr : tw.run.complete = true) : tw.Event tw.release
  | counts (n : LoopCounters) : tw.Event { tw with counters := tw.counters.plus n }

/-! ### Events of the machine -/

/-- What a step is made of: the events of one tower, of one port, of the Fault List and of the settings; and each change of an
input of the Preset Engine together with the refresh that follows it (R69 to R74). -/
inductive State.Event (s : State) : State → Prop where
  | pending (q : List Instr) : s.Event { s with pending := q }
  | sheets (n : Sheet) : s.Event { s with sheets := n }
  | access (a : AccessSettings) (ha : a.trust ≤ 2) : s.Event { s with access := a }
  | restartAccepted : s.Event { s with restartPending := true }
  | faultsTaken (n : Nat) (full : Bool) : s.Event { s with faults := { records := s.faults.records.drop n, full := full } }
  | logged (kind : FaultKind) (origin : Origin) (ho : ∀ t k, origin = .key t k → k < (s.tower t).keys.length) :
      s.Event (s.logFault kind origin)
  | framer (p : MasterPort) (f : Framer) (hf : (s.port p).framer.Sound → f.Sound) (hp : s.busy p = true → f.phase = .hunt) :
      s.Event (s.setFramer p f)
  | reply (p : MasterPort) (body : List Byte) : s.Event (s.sendReply p body)
  | release (p : MasterPort) : s.Event (s.release p)
  | ctx (p : MasterPort) (c : WriteContext) (hc : s.GeometrySound → c.Sound (s.tower c.tower).z) : s.Event (s.setCtx p c)
  | cursor (p : MasterPort) (c : Cursor) (hc : s.CurvesSound → c.Sound) : s.Event (s.setCursor p c)
  | tower (t : TowerIx) (tw : Tower) (ht : (s.tower t).Event tw) : s.Event (s.setTower t tw)
  | nextSlot (t : TowerIx) (sl : Slot) (hsl : s.GeometrySound → sl.Sound (s.tower t).z) :
      s.Event (s.setTower t { s.tower t with next := sl })
  | runSlot (t : TowerIx) (sl : Slot) (hs : (s.tower t).running = false) (hsl : s.GeometrySound → sl.Sound (s.tower t).z)
      (hr : ((s.tower t).run.complete = false ∧ sl.complete = false) ∨
        (sl.coverage = (s.tower t).run.coverage ∧ sl.mirrored = (s.tower t).run.mirrored)) :
      s.Event (s.setTower t { s.tower t with run := sl })
  | runSlotRefreshed (t : TowerIx) (sl : Slot) (hs : (s.tower t).running = false)
      (hsl : s.GeometrySound → sl.Sound (s.tower t).z) :
      s.Event ((s.setTower t { s.tower t with run := sl }).refreshTower t)
  | storeRun (t : TowerIx) (sl : Slot) (hs : (s.tower t).running = false) (hsl : s.GeometrySound → sl.Sound (s.tower t).z)
      (hm : sl.mirrored = (s.tower t).run.mirrored) (hl : sl.coverage.length = (s.tower t).run.coverage.length) :
      s.Event (s.storeSlot t .run sl)
  | jobChange (t : TowerIx) (keep : Bool) (hs : (s.tower t).state ≠ .presetting) (hn : (s.tower t).next.complete = true) :
      s.Event (s.jobChange t keep)
  | configure (t : TowerIx) (c : TowerConfig) (hc : c.Sound) (ha : (s.tower t).allowsConfig c = true) :
      s.Event (s.configure t c)
  | trim (t : TowerIx) (k : Nat) (v : Int) (hv : -300 ≤ v ∧ v ≤ 300) : s.Event (s.putTrim t k v)
  | acc (t : TowerIx) (k : Nat) (key : KeyRec) (v : Int) (hk : (s.tower t).keys[k]? = some key)
      (hv : -200 ≤ v ∧ v ≤ 200) : s.Event (s.putAcc t k key.acc v)
  | commit (p : MasterPort) (held w : Nat) (points : List Point) (hw : w ≤ 1000)
      (hp : (s.port p).cursor.phase = .half held)
      (hc : commitPoint (s.curve (s.port p).cursor.curve) (s.port p).cursor.index held w = some points) :
      s.Event (((s.setCurve (s.port p).cursor.curve points).setCursor p
        { (s.port p).cursor with index := (s.port p).cursor.index + 1, phase := .even, lastOp := .write }).refreshCurve
          (s.port p).cursor.curve)
  | clearCurve (c : CurveIx) : s.Event (((s.setCurve c []).resetCursors c).refreshCurve c)
  | restart : s.Event s.restart
  | powerOn : s.Event { State.reset with pending := s.pending }

/-- A state is left for another by a chain of events. -/
abbrev State.Events : State → State → Prop := Relation.ReflTransGen State.Event

/-- What every event keeps, every chain of events keeps. -/
theorem State.Events.keeps {Inv : State → Prop} (hevent : ∀ s u : State, s.Event u → Inv s → Inv u) {s u : State}
    (h : s.Events u) (hs : Inv s) : Inv u := by
  induction h with
  | refl => exact hs
  | tail _ hlast ih => exact hevent _ _ hlast ih

/-! ### Requests (R151): what their own steps do -/

theorem Tower.states_of_key {tw : Tower} {k : Nat} {key : KeyRec} (h : tw.keys[k]? = some key) :
    tw.states[k]? = some key.drive.state := by
  rw [Tower.getElem?_states, h]
  rfl

theorem Tower.running_eq_false {tw : Tower} (h : tw.state = .dark ∨ tw.state = .held) : tw.running = false := by
  rcases h with h | h <;> simp [Tower.running, h]

theorem Tower.running_of_mayStore {tw : Tower} (h : tw.mayStore .run = true) : tw.running = false :=
  Tower.running_eq_false (by simpa using (tw.mayStore_iff .run).mp h)

section Requests

variable {p : MasterPort} {args data : List Byte} {s s' : State} {r : Result}

theorem takeAccessSet_events (h : takeAccessSet p args s = .ok (s', r, data)) : s.Events s' := by
  unfold takeAccessSet at h
  split at h
  · split at h
    · split at h
      · next htl =>
        cases h
        exact .single (.access _ htl)
      · cases h
    · cases h
  · cases h

theorem takeWindowSet_events (h : takeWindowSet p args s = .ok (s', r, data)) : s.Events s' := by
  unfold takeWindowSet at h
  split at h
  · split at h
    · split at h
      · next hw =>
        cases h
        exact .single (.ctx p _ fun _ => WriteContext.placed_sound hw.1 hw.2)
      · cases h
    · cases h
  · cases h

theorem takeWriteModeSet_events (h : takeWriteModeSet p args s = .ok (s', r, data)) : s.Events s' := by
  unfold takeWriteModeSet at h
  split at h
  · split at h
    · cases h
      refine .single (.ctx p _ fun hgeo => ?_)
      obtain ⟨hfirst, hlast, -⟩ := hgeo.2 p
      exact WriteContext.placed_sound hfirst hlast
    · cases h
  · cases h

/-- The slot of a name is sound in a tower of sound shape. -/
theorem Tower.ShapeSound.slot {tw : Tower} (h : tw.ShapeSound) (n : SlotName) : (tw.slot n).Sound tw.z := by
  obtain ⟨-, -, hrun, hnext⟩ := h
  cases n with
  | run => exact hrun
  | next => exact hnext

/-- A slot that the rules let a port write, stored with its RUN change handed on (R21, R22). -/
theorem State.storeSlot_events {t : TowerIx} {n : SlotName} {sl : Slot} (hmay : (s.tower t).mayStore n = true)
    (hsl : s.GeometrySound → sl.Sound (s.tower t).z) (hm : sl.mirrored = ((s.tower t).slot n).mirrored)
    (hl : sl.coverage.length = ((s.tower t).slot n).coverage.length) : s.Events (s.storeSlot t n sl) := by
  cases n with
  | run => exact .single (.storeRun t sl (Tower.running_of_mayStore hmay) hsl hm hl)
  | next => exact .single (.nextSlot t sl hsl)

theorem Stream.value_leaves (st : Stream) (v : Nat) :
    (st.value v).slot.mirrored = st.slot.mirrored ∧ (st.value v).slot.tag = st.slot.tag ∧
      (st.value v).slot.coverage.length = st.slot.coverage.length := by
  unfold Stream.value
  split
  · exact ⟨rfl, rfl, rfl⟩
  · simp only
    split <;> simp

/-- The values of a ZONES WRITE leave the zone count, the tag and the mirrored flag (R30). -/
theorem Stream.fold_leaves (values : List Nat) (st : Stream) :
    (values.foldl Stream.value st).slot.mirrored = st.slot.mirrored ∧
      (values.foldl Stream.value st).slot.tag = st.slot.tag ∧
      (values.foldl Stream.value st).slot.coverage.length = st.slot.coverage.length := by
  induction values generalizing st with
  | nil => exact ⟨rfl, rfl, rfl⟩
  | cons v values ih =>
    obtain ⟨hmirrored, htag, hlength⟩ := st.value_leaves v
    obtain ⟨hmirrored', htag', hlength'⟩ := ih (st.value v)
    exact ⟨hmirrored'.trans hmirrored, htag'.trans htag, hlength'.trans hlength⟩

/-- Every value stored is clamped, so the slot of a ZONES WRITE stays sound (R28, R30). -/
theorem Stream.fold_slot_sound {n : Nat} (values : List Nat) {st : Stream} (hs : st.slot.Sound n) :
    (values.foldl Stream.value st).slot.Sound n := by
  induction values generalizing st with
  | nil => exact hs
  | cons v values ih =>
    refine ih ?_
    unfold Stream.value
    split
    · exact hs
    · simp only
      split
      · exact hs.store _ _ (clampCoverage_le v)
      · exact hs

theorem Stream.fold_ctx_tower (values : List Nat) (st : Stream) :
    (values.foldl Stream.value st).ctx.tower = st.ctx.tower := by
  induction values generalizing st with
  | nil => rfl
  | cons v values ih =>
    rw [List.foldl_cons, ih]
    unfold Stream.value
    split <;> rfl

theorem takeZonesWrite_events (h : takeZonesWrite p args s = .ok (s', r, data)) : s.Events s' := by
  unfold takeZonesWrite at h
  simp only at h
  split at h
  · next hmay =>
    cases h
    refine Relation.ReflTransGen.trans (.single (.ctx p _ fun hgeo => ?_)) (State.storeSlot_events ?_ (fun hgeo => ?_) ?_ ?_)
    · rw [Stream.fold_ctx_tower]
      exact (Stream.fold_sound _ _ ((hgeo.1 _).slot _) (hgeo.2 p)).2.1
    · simpa using hmay
    · have hshape := hgeo.1 (s.port p).ctx.tower
      rw [State.setCtx_tower] at hshape ⊢
      exact Stream.fold_slot_sound _ (hshape.slot _)
    · rw [State.setCtx_tower]
      exact (Stream.fold_leaves _ _).1
    · rw [State.setCtx_tower]
      exact (Stream.fold_leaves _ _).2.2
  · cases h

theorem takeZonesFill_events (h : takeZonesFill p args s = .ok (s', r, data)) : s.Events s' := by
  unfold takeZonesFill at h
  split at h
  · simp only at h
    split at h
    · next hmay =>
      cases h
      obtain ⟨hlength, -, hmirrored⟩ := WriteContext.fill_leaves (s.port p).ctx _ ((s.tower _).slot (s.port p).ctx.slot)
      exact State.storeSlot_events hmay (fun hgeo => ((hgeo.1 _).slot _).fill _ _) hmirrored hlength
    · cases h
  · cases h

@[simp] theorem Slot.emptied_complete (n : Nat) : (Slot.emptied n).complete = false := by
  simp [Slot.complete, Slot.state, Slot.emptied]

theorem takeSlotClear_events (h : takeSlotClear p args s = .ok (s', r, data)) : s.Events s' := by
  unfold takeSlotClear at h
  split at h
  · split at h
    · next t slot _ _ =>
      simp only at h
      split at h
      · next hmay =>
        have hsound : s.GeometrySound → (Slot.emptied ((s.tower t).slot slot).coverage.length).Sound (s.tower t).z :=
          fun hgeo => ((hgeo.1 t).slot slot).1 ▸ Slot.emptied_sound _
        cases slot with
        | run =>
          cases h
          have hrunning := Tower.running_of_mayStore hmay
          split
          · exact .single (.runSlotRefreshed t _ hrunning hsound)
          · next hkept =>
            have hcomplete : (s.tower t).run.complete = false := by
              simp only [Bool.or_eq_true, not_or, Bool.not_eq_true] at hkept
              exact hkept.1
            exact .single (.runSlot t _ hrunning hsound (.inl ⟨hcomplete, Slot.emptied_complete _⟩))
        | next =>
          cases h
          exact .single (.nextSlot t _ hsound)
      · cases h
    · cases h
  · cases h

theorem takeSlotTagSet_events (h : takeSlotTagSet p args s = .ok (s', r, data)) : s.Events s' := by
  unfold takeSlotTagSet at h
  split at h
  · split at h
    · next t slot mirrored _ _ _ =>
      simp only at h
      split at h
      · next hmay =>
        have hsound : ∀ tag, s.GeometrySound →
            ({ (s.tower t).slot slot with tag := tag, mirrored := mirrored } : Slot).Sound (s.tower t).z :=
          fun _ hgeo => (hgeo.1 t).slot slot
        cases slot with
        | run =>
          cases h
          have hrunning := Tower.running_of_mayStore hmay
          split
          · exact .single (.runSlotRefreshed t _ hrunning (hsound _))
          · next hkept =>
            have hsame : mirrored = (s.tower t).run.mirrored := by simpa using Eq.symm (by simpa using hkept)
            exact .single (.runSlot t _ hrunning (hsound _) (.inr ⟨rfl, hsame⟩))
        | next =>
          cases h
          exact .single (.nextSlot t _ (hsound _))
      · cases h
    · cases h
  · cases h

theorem takeCurveSelect_events (h : takeCurveSelect p args s = .ok (s', r, data)) : s.Events s' := by
  unfold takeCurveSelect at h
  split at h
  · split at h
    · split at h
      · next hi =>
        cases h
        exact .single (.cursor p _ fun _ => ⟨hi, trivial⟩)
      · cases h
    · cases h
  · cases h

theorem State.putWords_events (words : List Nat) (n : Nat) (s : State) : s.Events (State.putWords p words n s).1 := by
  refine State.putWords_keeps (Inv := s.Events) p (fun u hu => hu.tail (.cursor p _ fun hsound => ?_))
    (fun u w hu hw => hu.tail (.cursor p _ fun hsound => ?_))
    (fun u held w points hu hw hp hc => hu.tail (.commit p held w points hw hp hc)) words n s .refl
  · exact ⟨(hsound.2 p).1, trivial⟩
  · exact ⟨(hsound.2 p).1, hw⟩

theorem takeCurvePut_events (h : takeCurvePut p args s = .ok (s', r, data)) : s.Events s' := by
  cases h
  exact State.putWords_events ..

theorem takeCurveGet_events (h : takeCurveGet p args s = .ok (s', r, data)) : s.Events s' := by
  unfold takeCurveGet at h
  split at h
  · split at h
    · cases h
      refine .single (.cursor p _ fun hsound => ⟨?_, trivial⟩)
      obtain ⟨hlen, -, -⟩ := hsound.1 (s.port p).cursor.curve
      obtain ⟨hindex, -⟩ := hsound.2 p
      simp only [List.length_take, List.length_drop]
      omega
    · cases h
  · cases h

theorem takeCurveClear_events (h : takeCurveClear p args s = .ok (s', r, data)) : s.Events s' := by
  unfold takeCurveClear at h
  split at h
  · split at h
    · obtain ⟨rfl, -⟩ := Prod.mk.inj (Except.ok.inj h)
      exact .single (.clearCurve _)
    · cases h
  · cases h

theorem State.measureEntry_events (t : TowerIx) (sheet : Sheet) (k : Nat) (value : Int) (n : MeasureCounts) (s : State) :
    s.Events (s.measureEntry t sheet k value n).1 := by
  unfold State.measureEntry
  simp only
  split
  · next key hkey =>
    split_ifs
    · exact .refl
    · exact .refl
    · exact .refl
    · exact .single (.acc t k key _ hkey (clamp_mem _ (by decide)))
  · exact .refl

theorem State.measureEntries_events (t : TowerIx) (sheet : Sheet) (entries : List (Nat × Int)) (n : MeasureCounts)
    (s : State) : s.Events (State.measureEntries t sheet entries n s).1 := by
  induction entries generalizing n s with
  | nil => exact .refl
  | cons e rest ih => exact Relation.ReflTransGen.trans (s.measureEntry_events t sheet e.1 e.2 n) (ih _ _)

theorem takeMeasure_events (h : takeMeasure p args s = .ok (s', r, data)) : s.Events s' := by
  unfold takeMeasure at h
  split at h
  · simp only at h
    split at h
    · next t _ =>
      split at h
      · cases h
        refine Relation.ReflTransGen.tail ?_ (.tower t _ (.counts _))
        unfold State.measure
        split
        · exact State.measureEntries_events ..
        · exact .refl
      · cases h
    · cases h
  · cases h

/-- A record within its ranges is sound once its scale is clamped (R12). -/
theorem TowerConfig.clampScale_sound {c : TowerConfig} (h : c.inRange = true) : c.clampScale.Sound := by
  refine ⟨h, ?_, ?_⟩ <;> simp only [TowerConfig.clampScale] <;> omega

theorem takeConfigSet_events (h : takeConfigSet p args s = .ok (s', r, data)) : s.Events s' := by
  unfold takeConfigSet at h
  split at h
  · split at h
    · split at h
      · next hrange =>
        split at h
        · next hallows =>
          cases h
          exact .single (.configure _ _ (TowerConfig.clampScale_sound hrange) hallows)
        · cases h
      · cases h
    · cases h
  · cases h

/-- A request that names a tower alone does what its tower's rule does. -/
theorem takeTowerOnly_events {rule : TowerIx → Taken} (hrule : ∀ t, rule t = .ok (s', r, data) → s.Events s')
    (h : takeTowerOnly args rule = .ok (s', r, data)) : s.Events s' := by
  unfold takeTowerOnly at h
  split at h
  · split at h
    · exact hrule _ h
    · cases h
  · cases h

theorem takeEngage_events (h : takeEngage p args s = .ok (s', r, data)) : s.Events s' := by
  refine takeTowerOnly_events (fun t h => ?_) h
  simp only at h
  split_ifs at h with hdark hcomplete hunknown
  · cases h
    exact .refl
  · cases h
    exact .single (.tower t _ (.engage s.sheets (by simpa using hdark) (by simpa using hcomplete)))

theorem takeDisengage_events (h : takeDisengage p args s = .ok (s', r, data)) : s.Events s' := by
  refine takeTowerOnly_events (fun t h => ?_) h
  cases h
  exact .single (.tower t _ .disengage)

theorem takeJobChange_events (h : takeJobChange p args s = .ok (s', r, data)) : s.Events s' := by
  unfold takeJobChange at h
  split at h
  · split at h
    · simp only at h
      split_ifs at h with hbusy hcomplete hunknown
      cases h
      exact .single (.jobChange _ _ hbusy (by simpa using hcomplete))
    · cases h
  · cases h

theorem takeHold_events (h : takeHold p args s = .ok (s', r, data)) : s.Events s' := by
  refine takeTowerOnly_events (fun t h => ?_) h
  split at h
  · cases h
  · cases h
    exact .refl
  · next hs =>
    cases h
    exact .single (.tower t _ (.hold (by simp [Tower.running, hs])))
  · next hs =>
    cases h
    exact .single (.tower t _ (.hold (by simp [Tower.running, hs])))

theorem takeRelease_events (h : takeRelease p args s = .ok (s', r, data)) : s.Events s' := by
  refine takeTowerOnly_events (fun t h => ?_) h
  simp only at h
  split at h
  · cases h
  · cases h
    exact .refl
  · cases h
    exact .refl
  · next hs =>
    split at h
    · next hr =>
      cases h
      exact .single (.tower t _ (.release hs hr))
    · cases h

theorem State.putTrims_events (t : TowerIx) (wanted : Int → Int → Int) (entries : List (Nat × Int)) (s : State) :
    s.Events (State.putTrims t wanted entries s).1 := by
  induction entries generalizing s with
  | nil => exact .refl
  | cons e rest ih =>
    obtain ⟨k, x⟩ := e
    rw [State.putTrims_cons]
    exact Relation.ReflTransGen.trans (.single (.trim t k _ (clamp_mem _ (by decide)))) (ih _)

theorem State.takeTrims_events {b : Byte} {entries : List (Nat × Int)} {wanted : Int → Int → Int}
    (h : s.takeTrims b entries wanted = .ok (s', r, data)) : s.Events s' := by
  unfold State.takeTrims at h
  split at h
  · split at h
    · cases h
      exact State.putTrims_events ..
    · cases h
  · cases h

theorem takeTrimSet_events (h : takeTrimSet p args s = .ok (s', r, data)) : s.Events s' := by
  cases args with
  | nil => cases h
  | cons b entries => exact State.takeTrims_events h

theorem takeTrimNudge_events (h : takeTrimNudge p args s = .ok (s', r, data)) : s.Events s' := by
  cases args with
  | nil => cases h
  | cons b entries => exact State.takeTrims_events h

theorem Tower.isFaulted_iff (tw : Tower) (k : Nat) : tw.isFaulted k = true ↔ tw.states[k]? = some .faulted := by
  rw [Tower.getElem?_states, Tower.isFaulted]
  cases tw.keys[k]? <;> simp

theorem takeClearKeyFault_events (h : takeClearKeyFault p args s = .ok (s', r, data)) : s.Events s' := by
  unfold takeClearKeyFault at h
  split at h
  · split at h
    · next t _ =>
      simp only at h
      split at h
      · cases h
        exact .single (.tower t _ (.surveys _ fun k hk => ((s.tower t).isFaulted_iff k).mp (List.of_mem_filter hk)))
      · cases h
    · cases h
  · cases h

theorem takeFaultsTake_events (h : takeFaultsTake p args s = .ok (s', r, data)) : s.Events s' := by
  unfold takeFaultsTake at h
  split at h
  · split at h
    · cases h
      exact .single (.faultsTaken _ _)
    · cases h
  · cases h

theorem takeTowerStatus_state (h : takeTowerStatus p args s = .ok (s', r, data)) : s' = s := by
  unfold takeTowerStatus at h
  split at h
  · split at h
    · cases h
      rfl
    · cases h
  · cases h

theorem takeConfigGet_state (h : takeConfigGet p args s = .ok (s', r, data)) : s' = s := by
  unfold takeConfigGet at h
  split at h
  · split at h
    · cases h
      rfl
    · cases h
  · cases h

theorem takeKeyStatus_state (h : takeKeyStatus p args s = .ok (s', r, data)) : s' = s := by
  unfold takeKeyStatus at h
  split at h
  · split at h
    · split at h
      · cases h
        rfl
      · cases h
    · cases h
  · cases h

/-- The own steps of every function are a chain of events. -/
theorem takeFunction_events {fn : MasterFn} (h : takeFunction fn p args s = .ok (s', r, data)) : s.Events s' := by
  cases fn with
  | identify | sheetGet | zonesRead =>
    cases h
    exact .refl
  | towerStatus => exact takeTowerStatus_state (p := p) h ▸ .refl
  | keyStatus => exact takeKeyStatus_state (p := p) h ▸ .refl
  | configGet => exact takeConfigGet_state (p := p) h ▸ .refl
  | zonesAbove => exact takeZonesAbove_state (p := p) h ▸ .refl
  | faultsTake => exact takeFaultsTake_events (p := p) h
  | windowSet => exact takeWindowSet_events (p := p) h
  | writeModeSet => exact takeWriteModeSet_events (p := p) h
  | zonesWrite => exact takeZonesWrite_events (p := p) h
  | zonesFill => exact takeZonesFill_events (p := p) h
  | slotClear => exact takeSlotClear_events (p := p) h
  | slotTagSet => exact takeSlotTagSet_events (p := p) h
  | curveSelect => exact takeCurveSelect_events (p := p) h
  | curvePut => exact takeCurvePut_events (p := p) h
  | curveGet => exact takeCurveGet_events (p := p) h
  | curveClear => exact takeCurveClear_events (p := p) h
  | measure => exact takeMeasure_events (p := p) h
  | configSet => exact takeConfigSet_events (p := p) h
  | engage => exact takeEngage_events (p := p) h
  | disengage => exact takeDisengage_events (p := p) h
  | jobChange => exact takeJobChange_events (p := p) h
  | hold => exact takeHold_events (p := p) h
  | release => exact takeRelease_events (p := p) h
  | trimSet => exact takeTrimSet_events (p := p) h
  | trimNudge => exact takeTrimNudge_events (p := p) h
  | clearKeyFault => exact takeClearKeyFault_events (p := p) h
  | accessSet => exact takeAccessSet_events (p := p) h
  | restart =>
    cases h
    exact .single .restartAccepted

end Requests

/-- A request, taken or refused, is a chain of events that its reply ends (R148, R149). -/
theorem State.takeRequest_events (s : State) (p : MasterPort) (fn : MasterFn) (args : List Byte) :
    s.Events (s.takeRequest p fn args (takeFunction fn)) :=
  State.takeRequest_keeps (Inv := s.Events) .refl (fun _ q bytes hu => hu.tail (.reply q bytes))
    fun _ _ _ hbody => takeFunction_events hbody

theorem State.takeFrame_events (s : State) (p : MasterPort) (code : Byte) (args : List Byte) :
    s.Events (s.takeFrame p code args) := by
  unfold State.takeFrame
  split
  · exact s.takeRequest_events ..
  · split
    · exact .refl
    · exact .single (.reply p _)

theorem State.takeBadFrame_events (s : State) (p : MasterPort) (first : Option Byte) :
    s.Events (s.takeBadFrame p first) := by
  unfold State.takeBadFrame
  split
  · exact .refl
  · exact Relation.ReflTransGen.tail (.single (.logged _ _ fun _ _ h => by cases h)) (.reply p _)

/-! ### Reports and expiries (R131 to R139) -/

theorem Tower.key_lt {tw : Tower} {k : Nat} {key : KeyRec} (h : tw.keys[k]? = some key) : k < tw.keys.length :=
  (List.getElem?_eq_some_iff.mp h).1

theorem Tower.Event.keys_length_of_key {s : State} {t : TowerIx} {k : Nat} {tw : Tower} (hlt : k < (s.tower t).keys.length)
    (hlen : tw.keys.length = (s.tower t).keys.length) :
    ∀ t' k', Origin.key t k = .key t' k' → k' < ((s.setTower t tw).tower t').keys.length := by
  rintro t' k' h
  cases h
  rw [State.tower_setTower_same, hlen]
  exact hlt

/-- An event of a tower that keeps its number of keys, followed by a fault of one of them. -/
theorem State.towerFault_events {s : State} {t : TowerIx} {k : Nat} {tw : Tower} (kind : FaultKind)
    (hevent : (s.tower t).Event tw) (hlt : k < (s.tower t).keys.length) (hlen : tw.keys.length = (s.tower t).keys.length) :
    s.Events ((s.setTower t tw).logFault kind (.key t k)) :=
  Relation.ReflTransGen.tail (.single (.tower t tw hevent))
    (.logged kind _ (Tower.Event.keys_length_of_key hlt hlen))

section Reports

variable {s : State} {t : TowerIx} {k position : Nat} (hp : position ≤ 65535)
include hp

theorem State.moveDone_events {key : KeyRec} (target : Nat) (hkey : (s.tower t).keys[k]? = some key)
    (hmoving : key.drive.state = .moving) : s.Events (s.moveDone t k position target) := by
  have hstate : (s.tower t).states[k]? = some .moving := hmoving ▸ Tower.states_of_key hkey
  unfold State.moveDone
  simp only
  split
  · refine State.towerFault_events _ (.stopsShort k position _ hstate hp) (Tower.key_lt hkey) ?_
    rw [(Tower.driveOnly_afterMove _).keys_length]
    simp
  · exact .single (.tower t _ (.arrives k position _ hstate hp))

theorem State.takePos_events : s.Events (s.takePos t k position) := by
  unfold State.takePos
  simp only
  split
  · next key hkey =>
    have hstate := Tower.states_of_key hkey
    split <;> (rename_i hd; rw [hd] at hstate)
    · exact .single (.tower t _ (.stands k position (.inl hstate) hp))
    · exact .single (.tower t _ (.stands k position (.inr hstate) hp))
    · exact .single (.tower t _ (.queuedAt k position hstate hp))
    · exact .single (.tower t _ (.movesOn k position _ _ hstate hp))
    · exact .single (.tower t _ (.faults k _ _ (.inr (.inr hstate)) (by simpa using hp)))
  · exact .refl

theorem State.takeDone_events : s.Events (s.takeDone t k position) := by
  unfold State.takeDone
  simp only
  split
  · next key hkey =>
    have hstate := Tower.states_of_key hkey
    split <;> (rename_i hd; rw [hd] at hstate)
    · exact State.moveDone_events hp _ hkey (by rw [hd]; rfl)
    · exact .single (.tower t _ (.stands k position (.inl hstate) hp))
    · exact .single (.tower t _ (.stands k position (.inr hstate) hp))
    · exact .single (.tower t _ (.queuedAt k position hstate hp))
    · have hevent := fun kind => Tower.Event.faults (tw := s.tower t) k kind (some position) (.inr (.inr hstate))
        (by simpa using hp)
      split
      · exact State.towerFault_events _ (hevent _) (Tower.key_lt hkey) (by simp)
      · exact .single (.tower t _ (hevent _))
  · exact .refl

theorem State.takeFault_events (kind : KeyFault) : s.Events (s.takeFault t k kind position) := by
  unfold State.takeFault
  simp only
  have hpos : ∀ q ∈ some position, q ≤ 65535 := by simpa using hp
  split
  · next key hkey =>
    have hstate := Tower.states_of_key hkey
    have hlt := Tower.key_lt hkey
    split <;> (rename_i hd; rw [hd] at hstate)
    · exact State.towerFault_events _ (.movingFaults k kind _ hstate fun _ => hpos) hlt
        (by rw [(Tower.driveOnly_afterMove _).keys_length]; simp)
    · exact State.towerFault_events _ (.queuedFaults k kind _ hstate hpos) hlt (by simp)
    · exact State.towerFault_events _ (.faults k kind _ (.inl hstate) hpos) hlt (by simp)
    · exact State.towerFault_events _ (.faults k kind _ (.inr (.inl hstate)) hpos) hlt (by simp)
    · exact State.towerFault_events _ (.faults k kind _ (.inr (.inr hstate)) hpos) hlt (by simp)
  · exact .refl

end Reports

theorem State.takeReport_events (s : State) (t : TowerIx) (r : Report) : s.Events (s.takeReport t r) := by
  have hpos : ∀ position : BitVec 16, position.toNat ≤ 65535 := fun position => Nat.le_of_lt_succ position.isLt
  cases r with
  | done key position => exact State.takeDone_events (hpos position)
  | fault key kind position => exact State.takeFault_events (hpos position) _
  | pos key position => exact State.takePos_events (hpos position)

theorem Framer.hunting_sound : Framer.hunting.Sound := by simp [Framer.Sound, Framer.hunting]

theorem State.huntDrive_events (s : State) (t : TowerIx) : s.Events (s.huntDrive t) :=
  .single (.tower t _ (.framer _ fun _ => Framer.hunting_sound))

theorem State.badDriveFrame_events (s : State) (t : TowerIx) : s.Events (s.badDriveFrame t) :=
  (s.huntDrive_events t).tail (.logged _ _ fun _ _ h => by cases h)

/-! ### Every command -/

/-- A framer that has moved on runs its timer exactly outside HUNT (R147). -/
theorem Framer.take_moved_sound {f g : Framer} {ch : Character} (ht : f.take ch = .moved g) (h : f.Sound) : g.Sound := by
  unfold Framer.take at ht
  split at ht
  · split at ht <;> cases ht
    · simp [Framer.Sound]
    · exact h
  · split at ht <;> cases ht
    simp [Framer.Sound, Framer.marked]
  · cases ht
    simp only [Framer.Sound, Framer.marked, true_iff]
    split <;> simp
  · cases ht

theorem Instr.command_of_request {c : Instr} {p : MasterPort} {fn : MasterFn} {args : List Byte}
    (h : c.request? = some (p, fn, args)) : fn.command p args = c := by
  cases c <;> cases h <;> rfl

section Commands

variable {s u : State}

theorem execMasterLinkCharacter_events {p : MasterPort} {ch : Character}
    (h : execMasterLinkCharacter p ch s = .next u) : s.Events u := by
  unfold execMasterLinkCharacter at h
  split at h
  · cases h
    exact .refl
  · next hfree =>
    have hhunt : s.Event (s.setFramer p Framer.hunting) := .framer p _ (fun _ => Framer.hunting_sound) fun _ => rfl
    split at h
    · next g hg =>
      cases h
      exact .single (.framer p g (Framer.take_moved_sound hg) fun hbusy => absurd hbusy hfree)
    · cases h
      exact Relation.ReflTransGen.head hhunt (State.takeBadFrame_events ..)
    · split at h
      · cases h
        exact Relation.ReflTransGen.head hhunt (State.takeFrame_events ..)
      · cases h
        exact Relation.ReflTransGen.head hhunt (State.takeBadFrame_events ..)

theorem execDrivePortCharacter_events {t : TowerIx} {ch : Character}
    (h : execDrivePortCharacter t ch s = .next u) : s.Events u := by
  unfold execDrivePortCharacter at h
  split at h
  · next g hg =>
    cases h
    exact .single (.tower t _ (.framer g (Framer.take_moved_sound hg)))
  · cases h
    exact s.badDriveFrame_events t
  · split at h
    · cases h
      exact Relation.ReflTransGen.trans (s.huntDrive_events t) (State.takeReport_events ..)
    · cases h
      exact s.badDriveFrame_events t

theorem execMoveTimerExpiry_events {t : TowerIx} {k : Nat} (h : execMoveTimerExpiry t k s = .next u) : s.Events u := by
  unfold execMoveTimerExpiry at h
  simp only at h
  split at h
  · next key hkey =>
    have hstate := Tower.states_of_key hkey
    split at h <;> cases h
    · rename_i position _ _ hd
      rw [hd] at hstate
      refine State.towerFault_events _ (.movingFaults k .timeout _ hstate fun hsound q hq => ?_) (Tower.key_lt hkey)
        (by rw [(Tower.driveOnly_afterMove _).keys_length]; simp)
      exact hsound key (List.mem_of_getElem? hkey) q (by rw [hd]; exact hq)
    all_goals exact .refl
  · cases h
    exact .refl

theorem execAskTimerExpiry_events {t : TowerIx} {k : Nat} (h : execAskTimerExpiry t k s = .next u) : s.Events u := by
  unfold execAskTimerExpiry at h
  simp only at h
  split at h
  · next key hkey =>
    have hstate := Tower.states_of_key hkey
    split at h <;> cases h
    · rename_i hd
      rw [hd] at hstate
      exact State.towerFault_events _ (.faults k .noAnswer none (.inl hstate) (by simp)) (Tower.key_lt hkey) (by simp)
    all_goals exact .refl
  · cases h
    exact .refl

theorem execReplySent_events {p : MasterPort} (h : execReplySent p s = .next u) : s.Events u := by
  unfold execReplySent at h
  split at h
  · split at h
    · obtain rfl := Host.Outcome.next.inj h
      exact Relation.ReflTransGen.tail (.single (.release p)) .restart
    · cases h
      exact .single (.release p)
  · cases h
    exact .refl

theorem execRestartTakesEffect_events (h : execRestartTakesEffect s = .next u) : s.Events u := by
  unfold execRestartTakesEffect at h
  split at h
  · obtain rfl := Host.Outcome.next.inj h
    exact Relation.ReflTransGen.tail (.single (.release .console)) .restart
  · cases h
    exact .refl

theorem execMasterFrameAbandon_events {p : MasterPort} (h : execMasterFrameAbandon p s = .next u) : s.Events u := by
  unfold execMasterFrameAbandon at h
  split at h <;> cases h
  · exact .single (.framer p _ (fun _ => Framer.hunting_sound) fun _ => rfl)
  · exact .refl

theorem execDriveFrameAbandon_events {t : TowerIx} (h : execDriveFrameAbandon t s = .next u) : s.Events u := by
  unfold execDriveFrameAbandon at h
  split at h <;> cases h
  · exact s.huntDrive_events t
  · exact .refl

/-- What a command does is a chain of events. -/
theorem exec_events {c : Instr} (h : exec c s = .next u) : s.Events u := by
  cases hreq : c.request? with
  | some request =>
    obtain ⟨p, fn, args⟩ := request
    rw [← Instr.command_of_request hreq, exec_command] at h
    obtain rfl := Host.Outcome.next.inj h
    exact s.takeRequest_events ..
  | none =>
    cases c with
    | powerOn =>
      obtain rfl := Host.Outcome.next.inj h
      exact .single .powerOn
    | sheetPulse =>
      obtain rfl := Host.Outcome.next.inj h
      exact .single (.sheets _)
    | restartTakesEffect => exact execRestartTakesEffect_events h
    | unknownFunction p code args =>
      obtain rfl := Host.Outcome.next.inj h
      exact s.takeFrame_events ..
    | masterBadFrame p first =>
      obtain rfl := Host.Outcome.next.inj h
      exact s.takeBadFrame_events ..
    | masterFrameAbandon p => exact execMasterFrameAbandon_events h
    | done t key position =>
      obtain rfl := Host.Outcome.next.inj h
      exact Relation.ReflTransGen.trans (s.huntDrive_events t) (State.takeReport_events ..)
    | fault t key kind position =>
      obtain rfl := Host.Outcome.next.inj h
      exact Relation.ReflTransGen.trans (s.huntDrive_events t) (State.takeReport_events ..)
    | pos t key position =>
      obtain rfl := Host.Outcome.next.inj h
      exact Relation.ReflTransGen.trans (s.huntDrive_events t) (State.takeReport_events ..)
    | drivePortBadFrame t =>
      obtain rfl := Host.Outcome.next.inj h
      exact s.badDriveFrame_events t
    | driveFrameAbandon t => exact execDriveFrameAbandon_events h
    | moveTimerExpiry t k => exact execMoveTimerExpiry_events h
    | askTimerExpiry t k => exact execAskTimerExpiry_events h
    | masterLinkCharacter p ch => exact execMasterLinkCharacter_events h
    | drivePortCharacter t ch => exact execDrivePortCharacter_events h
    | replySent p => exact execReplySent_events h
    | drivePortMessageSent t =>
      obtain rfl := Host.Outcome.next.inj h
      exact .single (.tower t _ .sent)
    | _ => cases hreq

end Commands

/-- A step is a chain of events (R159). -/
theorem step_events {s u : State} (h : step s = .next u) : s.Events u := by
  unfold step at h
  split at h
  · cases h
    exact .refl
  · exact Relation.ReflTransGen.head (.pending _) (exec_events h)

/-- What every event keeps, every step keeps. -/
theorem step_keeps {Inv : State → Prop} (hevent : ∀ s u : State, s.Event u → Inv s → Inv u) {s u : State}
    (h : step s = .next u) (hs : Inv s) : Inv u :=
  (step_events h).keeps hevent hs

end Sys2Proof.Machine

/-! SUPPORT. What the Key Drive Unit and the Tower Sequencer leave of a tower, operation by operation: the plates, the record,
every target and correction, and the soundness of counters, sweeps, positions and the drive port. -/

namespace Sys2Proof.Machine

/-! ### What is kept -/

/-- A drive port that sends nothing has no message waiting (R129). -/
def DrivePort.LineSound (d : DrivePort) : Prop := d.sending = none → d.waiting = []

/-- A drive port's framer and line are sound (R143, R129). -/
def DrivePort.Sound (d : DrivePort) : Prop := d.framer.Sound ∧ d.LineSound

/-- The sweep and the last sweep sent lie within 5..100 (R68, R142). -/
def Tower.SweepsSound (tw : Tower) : Prop :=
  (∀ v ∈ tw.sweep, 5 ≤ v ∧ v ≤ 100) ∧ ∀ v ∈ tw.lastSweep, 5 ≤ v ∧ v ≤ 100

/-- The plates, the record and the number of keys are as they were; counters, sweeps, drive port and positions are sound if
they were; and a tower runs only if it ran or its RUN slot is COMPLETE. -/
structure Tower.Keeps (a b : Tower) : Prop where
  config : b.config = a.config
  run : b.run = a.run
  next : b.next = a.next
  length : b.keys.length = a.keys.length
  counters : a.counters.Sound → b.counters.Sound
  sweeps : a.SweepsSound → b.SweepsSound
  port : a.port.Sound → b.port.Sound
  positions : a.PositionsSound → b.PositionsSound
  running : b.running = true → a.running = true ∨ a.run.complete = true

/-- The part of a key record that a refresh reads and writes. -/
def KeyRec.preset (key : KeyRec) : KeyRec := { key with drive := .unknown, settleUntil := 0#32 }

/-- Nothing that the Preset Engine reads or writes changed. -/
structure Tower.Carries (a b : Tower) : Prop where
  keeps : a.Keeps b
  sweep : b.sweep = a.sweep
  keys : b.keys.map KeyRec.preset = a.keys.map KeyRec.preset

theorem Tower.Keeps.refl (tw : Tower) : tw.Keeps tw := ⟨rfl, rfl, rfl, rfl, id, id, id, id, .inl⟩

theorem Tower.Keeps.trans {a b c : Tower} (h : a.Keeps b) (h' : b.Keeps c) : a.Keeps c where
  config := h'.config.trans h.config
  run := h'.run.trans h.run
  next := h'.next.trans h.next
  length := h'.length.trans h.length
  counters := h'.counters ∘ h.counters
  sweeps := h'.sweeps ∘ h.sweeps
  port := h'.port ∘ h.port
  positions := h'.positions ∘ h.positions
  running hc := (h'.running hc).elim h.running fun hrun => .inr (h.run ▸ hrun)

theorem Tower.Keeps.z {a b : Tower} (h : a.Keeps b) : b.z = a.z := by rw [Tower.z, h.config, Tower.z]

theorem Tower.Carries.refl (tw : Tower) : tw.Carries tw := ⟨.refl tw, rfl, rfl⟩

theorem Tower.Carries.trans {a b c : Tower} (h : a.Carries b) (h' : b.Carries c) : a.Carries c :=
  ⟨h.keeps.trans h'.keeps, h'.sweep.trans h.sweep, h'.keys.trans h.keys⟩

theorem KeyRec.preset_undriven (key : KeyRec) : key.undriven.preset = key.preset := rfl

/-- A change of drive parts, queue, moving count, tower state, last sweep sent and messages carries the presets, once what it
does to the sweep sent, the line, the positions and the tower state is known. -/
theorem Tower.DriveOnly.carries {a b : Tower} (h : a.DriveOnly b)
    (hsweep : b.lastSweep = a.lastSweep ∨ b.lastSweep = a.sweep ∨ b.lastSweep = none)
    (hline : a.port.LineSound → b.port.LineSound) (hpositions : a.PositionsSound → b.PositionsSound)
    (hrunning : b.running = true → a.running = true ∨ a.run.complete = true) : a.Carries b := by
  obtain ⟨⟨hconfig, hrun, hnext, hsw, hcounters, hframer⟩, hkeys⟩ := h
  refine ⟨⟨hconfig, hrun, hnext, by simpa using congrArg List.length hkeys, fun hc => hcounters ▸ hc, fun hs => ?_,
    fun hp => ⟨hframer ▸ hp.1, hline hp.2⟩, hpositions, hrunning⟩, hsw, ?_⟩
  · refine ⟨hsw ▸ hs.1, fun v hv => ?_⟩
    rcases hsweep with e | e | e <;> rw [e] at hv
    · exact hs.2 v hv
    · exact hs.1 v hv
    · cases hv
  · simpa [Function.comp_def, KeyRec.preset_undriven] using congrArg (List.map KeyRec.preset) hkeys

/-- The same where only drive parts, queue and moving count change. -/
theorem Tower.DriveOnly.carries_of_same {a b : Tower} (h : a.DriveOnly b) (hsweep : b.lastSweep = a.lastSweep)
    (hport : b.port = a.port) (hstate : b.state = a.state) (hpositions : a.PositionsSound → b.PositionsSound) :
    a.Carries b :=
  h.carries (.inl hsweep) (fun hl => hport ▸ hl) hpositions fun hr => .inl (by rwa [Tower.running, hstate] at hr)

/-! ### Positions and lines -/

theorem DrivePort.lineSound_send (d : DrivePort) (m : DriveMessage) : (d.send m).LineSound := by
  unfold DrivePort.send
  split
  · exact fun h => nomatch h
  · next h => exact fun hnone => absurd (h.symm.trans hnone) (by simp)

theorem DrivePort.LineSound.sent {d : DrivePort} : d.sent.LineSound := by
  unfold DrivePort.sent
  split
  · next h => exact fun _ => h
  · exact fun h => nomatch h

/-- A changed drive part leaves the positions sound if its own is. -/
theorem Tower.PositionsSound.updateKey {tw : Tower} (h : tw.PositionsSound) (k : Nat) {f : KeyRec → KeyRec}
    (hf : ∀ key ∈ tw.keys, ∀ q ∈ (f key).drive.position, q ≤ 65535) : (tw.updateKey k f).PositionsSound := by
  intro key hkey q hq
  obtain ⟨j, hj⟩ := List.getElem?_of_mem hkey
  rw [Tower.updateKey_keys, List.getElem?_modify] at hj
  obtain ⟨a, ha, rfl⟩ := Option.map_eq_some_iff.mp hj
  have hmem := List.mem_of_getElem? ha
  by_cases hk : k = j
  · simp only [hk, if_true] at hq
    exact hf a hmem q hq
  · simp only [hk, if_false] at hq
    exact h a hmem q hq

theorem Drive.toQueued_position (d : Drive) : d.toQueued.position = d.position := by cases d <;> rfl

theorem Drive.toIdle_position (d : Drive) : d.toIdle.position = d.position := by cases d <;> rfl

/-! ### The Key Drive Unit -/

theorem Tower.carries_send (tw : Tower) (m : DriveMessage) : tw.Carries (tw.send m) :=
  (tw.driveOnly_send m).carries (.inl rfl) (fun _ => DrivePort.lineSound_send _ _) id .inl

theorem Tower.carries_setDrive (tw : Tower) (k : Nat) (d : Drive)
    (hd : tw.PositionsSound → ∀ q ∈ d.position, q ≤ 65535) : tw.Carries (tw.setDrive k d) :=
  (tw.driveOnly_setDrive k d).carries_of_same rfl rfl rfl fun h => h.updateKey k fun _ _ => hd h

theorem Tower.carries_enqueue (tw : Tower) (k : Nat) : tw.Carries (tw.enqueue k) :=
  (tw.driveOnly_enqueue k).carries_of_same rfl rfl rfl fun h =>
    h.updateKey (f := fun key => { key with drive := key.drive.toQueued }) k fun key hkey q hq =>
      h key hkey q (key.drive.toQueued_position ▸ hq)

theorem Tower.carries_dequeue (tw : Tower) (k : Nat) : tw.Carries (tw.dequeue k) :=
  (tw.driveOnly_dequeue k).carries_of_same rfl rfl rfl fun h =>
    h.updateKey (f := fun key => { key with drive := key.drive.toIdle }) k fun key hkey q hq =>
      h key hkey q (key.drive.toIdle_position ▸ hq)

theorem Tower.carries_endMove (tw : Tower) (k : Nat) (d : Drive)
    (hd : tw.PositionsSound → ∀ q ∈ d.position, q ≤ 65535) : tw.Carries (tw.endMove k d) :=
  (tw.driveOnly_endMove k d).carries_of_same rfl rfl rfl fun h => Tower.PositionsSound.updateKey h k fun _ _ => hd h

theorem Tower.carries_survey (tw : Tower) (k : Nat) : tw.Carries (tw.survey k) :=
  (tw.carries_setDrive k .unknown fun _ _ hq => nomatch hq).trans (Tower.carries_send _ _)

theorem Tower.carries_surveyAll (tw : Tower) (ks : List Nat) : tw.Carries (tw.surveyAll ks) := by
  induction ks generalizing tw with
  | nil => exact .refl _
  | cons k ks ih => exact (tw.carries_survey k).trans (ih _)

theorem Tower.carries_sweepCheck (tw : Tower) : tw.Carries tw.sweepCheck := by
  rcases tw.sweepCheck_cases with ⟨h, -⟩ | ⟨v, hv, -, h⟩ <;> rw [h]
  · exact .refl _
  · exact (h ▸ tw.driveOnly_sweepCheck).carries (.inr (.inl hv.symm)) (fun _ => DrivePort.lineSound_send _ _) id .inl

theorem Tower.carries_state (tw : Tower) (st : TowerState)
    (h : ({ tw with state := st } : Tower).running = true → tw.running = true ∨ tw.run.complete = true) :
    tw.Carries { tw with state := st } :=
  (tw.driveOnly_state st).carries (.inl rfl) id id h

theorem Tower.carries_drainCheck (tw : Tower) : tw.Carries tw.drainCheck := by
  rcases tw.drainCheck_cases with h | ⟨hs, -, -, h⟩ <;> rw [h]
  · exact .refl _
  · exact (tw.carries_state .printing fun _ => .inl (by simp [Tower.running, hs])).trans (Tower.carries_sweepCheck _)

theorem Tower.carries_dispatchHead {tw tw' : Tower} (hstart : tw.PositionsSound → tw.PositionsSound)
    (h : tw.dispatchHead = some tw') : tw.Carries tw' := by
  obtain ⟨k, rest, key, position, target, -, -, -, hkey, hdrive, -, rfl⟩ := Tower.dispatchHead_eq_some h
  refine (Tower.driveOnly_dispatchHead h).carries (.inl rfl) (fun _ => DrivePort.lineSound_send _ _) (fun hp => ?_) .inl
  refine Tower.PositionsSound.updateKey (hstart hp) k fun _ _ q hq => ?_
  exact hp key (List.mem_of_getElem? hkey) q (by rw [hdrive]; exact hq)

theorem Tower.carries_dispatch (tw : Tower) : tw.Carries tw.dispatch :=
  Tower.dispatch_keeps (Inv := tw.Carries) (fun _ _ h e => h.trans (Tower.carries_dispatchHead id e)) (.refl _)

theorem Tower.carries_requeue (tw : Tower) (k : Nat) : tw.Carries (tw.requeue k) := by
  rcases tw.requeue_cases k with ⟨-, -, h⟩ | ⟨-, h⟩ <;> rw [h]
  · exact tw.carries_enqueue k
  · exact .refl _

theorem Tower.carries_seekTarget (tw : Tower) (k : Nat) : tw.Carries (tw.seekTarget k) := by
  rcases tw.seekTarget_cases k with ⟨-, -, h⟩ | ⟨-, h⟩ <;> rw [h]
  · exact (tw.carries_enqueue k).trans (Tower.carries_dispatch _)
  · exact .refl _

theorem Tower.carries_targetChange (tw : Tower) (k : Nat) : tw.Carries (tw.targetChange k) := by
  rcases tw.targetChange_cases k with ⟨-, h⟩ | ⟨_, _, -, -, -, h⟩ | ⟨_, _, _, -, -, -, -, h⟩ | ⟨-, -, h⟩ <;> rw [h]
  · exact tw.carries_seekTarget k
  · exact (tw.carries_dequeue k).trans (Tower.carries_drainCheck _)
  · exact .refl _
  · exact .refl _

theorem Tower.carries_sweepChange (tw : Tower) : tw.Carries tw.sweepChange := by
  unfold Tower.sweepChange
  split
  · exact tw.carries_sweepCheck
  · exact .refl _

theorem Tower.carries_enqueueAway (tw : Tower) (ks : List Nat) : tw.Carries (tw.enqueueAway ks) := by
  unfold Tower.enqueueAway
  induction ks generalizing tw with
  | nil => exact .refl _
  | cons k ks ih =>
    rw [List.foldl_cons]
    split
    · exact (tw.carries_enqueue k).trans (ih _)
    · exact ih _

theorem Tower.carries_afterMove (tw : Tower) : tw.Carries tw.afterMove :=
  tw.carries_dispatch.trans (Tower.carries_drainCheck _)

theorem Tower.carries_standsAt (tw : Tower) (k : Nat) {position : Nat} (hp : position ≤ 65535) :
    tw.Carries (tw.standsAt k position) :=
  (tw.carries_setDrive k _ fun _ => by simpa [Drive.position] using hp).trans (Tower.carries_seekTarget _ _)

theorem Tower.carries_queuedAt (tw : Tower) (k : Nat) {position : Nat} (hp : position ≤ 65535) :
    tw.Carries (tw.queuedAt k position) := by
  have hset : tw.Carries (tw.setDrive k (.queued position)) :=
    tw.carries_setDrive k _ fun _ => by simpa [Drive.position] using hp
  unfold Tower.queuedAt
  split
  · split
    · exact (hset.trans (Tower.carries_dequeue _ _)).trans (Tower.carries_drainCheck _)
    · exact hset
  · exact .refl _

/-! ### The Tower Sequencer -/

/-- Records that differ in their settle windows alone hold the same presets and positions. -/
theorem Tower.carries_settle (tw : Tower) (keys : List KeyRec) (hpreset : keys.map KeyRec.preset = tw.keys.map KeyRec.preset)
    (hdrive : keys.map KeyRec.drive = tw.keys.map KeyRec.drive) : tw.Carries { tw with keys := keys } := by
  refine ⟨⟨rfl, rfl, rfl, by simpa using congrArg List.length hpreset, id, id, id, fun h key hkey => ?_, .inl⟩, rfl, hpreset⟩
  obtain ⟨key', hkey', heq⟩ := List.mem_map.mp (hdrive ▸ List.mem_map_of_mem (f := KeyRec.drive) hkey)
  exact heq ▸ h key' hkey'

theorem Tower.carries_settleKey (tw : Tower) (k : Nat) (sheet : Sheet) : tw.Carries (tw.settleKey k sheet) :=
  have hkeep {β : Type} (g : KeyRec → β) (h : ∀ key : KeyRec, g { key with settleUntil := sheet } = g key) :=
    map_modify_of_eq h tw.keys k
  tw.carries_settle _ (hkeep KeyRec.preset fun _ => rfl) (hkeep KeyRec.drive fun _ => rfl)

theorem Tower.carries_settleAll (tw : Tower) (sheet : Sheet) : tw.Carries (tw.settleAll sheet) :=
  tw.carries_settle _ (by simp [Function.comp_def, KeyRec.preset]) (by simp [Function.comp_def])

theorem LoopCounters.zero_sound : LoopCounters.zero.Sound := by simp [LoopCounters.Sound, LoopCounters.zero]

theorem LoopCounters.plus_sound (c n : LoopCounters) : (c.plus n).Sound := by
  simp [LoopCounters.Sound, LoopCounters.plus]

theorem Tower.carries_counters (tw : Tower) {c : LoopCounters} (hc : c.Sound) : tw.Carries { tw with counters := c } :=
  ⟨⟨rfl, rfl, rfl, rfl, fun _ => hc, id, id, id, .inl⟩, rfl, rfl⟩

theorem Tower.carries_engage (tw : Tower) (sheets : Sheet) (hr : tw.run.complete = true) :
    tw.Carries (tw.engage sheets) :=
  (((((((tw.carries_state .presetting fun _ => .inr hr).trans (Tower.carries_counters _ LoopCounters.zero_sound)).trans
    (Tower.carries_settleAll _ _)).trans (Tower.carries_sweepCheck _)).trans (Tower.carries_enqueueAway _ _)).trans
      (Tower.carries_dispatch _)).trans (Tower.carries_drainCheck _))

theorem Tower.carries_disengage (tw : Tower) : tw.Carries tw.disengage := by
  have hkeys : ∀ (ks : List Nat) (u : Tower), u.Carries (ks.foldl (fun tw k => tw.dequeue k) u) := by
    intro ks
    induction ks with
    | nil => exact fun u => .refl u
    | cons k ks ih => exact fun u => (u.carries_dequeue k).trans (ih _)
  refine ((tw.carries_state .dark fun h => by simp [Tower.running] at h).trans (hkeys tw.queue _)).trans ?_
  exact (Tower.DriveOnly.carries ⟨⟨rfl, rfl, rfl, rfl, rfl, rfl⟩, rfl⟩ (.inr (.inr rfl)) id id .inl)

theorem Tower.carries_release (tw : Tower) (hr : tw.run.complete = true) : tw.Carries tw.release :=
  ((tw.carries_state _ fun _ => .inr hr).trans (Tower.carries_sweepCheck _)).trans (Tower.carries_dispatch _)

theorem Tower.carries_setFramer (tw : Tower) {f : Framer} (hf : tw.port.framer.Sound → f.Sound) :
    tw.Carries (tw.setFramer f) :=
  ⟨⟨rfl, rfl, rfl, rfl, id, id, fun hp => ⟨hf hp.1, hp.2⟩, id, .inl⟩, rfl, rfl⟩

theorem DrivePort.sent_framer (d : DrivePort) : d.sent.framer = d.framer := by
  unfold DrivePort.sent
  split <;> rfl

theorem Tower.carries_sent (tw : Tower) : tw.Carries { tw with port := tw.port.sent } :=
  ⟨⟨rfl, rfl, rfl, rfl, id, id, fun hp => ⟨tw.port.sent_framer ▸ hp.1, DrivePort.LineSound.sent⟩, id, .inl⟩, rfl, rfl⟩

/-- No event of a tower changes anything that the Preset Engine reads or writes. -/
theorem Tower.Event.carries {a b : Tower} (h : a.Event b) : a.Carries b := by
  have hsome : ∀ {position : Nat}, position ≤ 65535 → ∀ q ∈ some position, q ≤ 65535 := by simp
  cases h with
  | framer f hf => exact a.carries_setFramer hf
  | sent => exact a.carries_sent
  | stands k position _ hp => exact a.carries_standsAt k hp
  | queuedAt k position _ hp => exact a.carries_queuedAt k hp
  | movesOn k position target timeout _ hp => exact a.carries_setDrive k _ fun _ => hsome hp
  | faults k kind p _ hp => exact a.carries_setDrive k _ fun _ => hp
  | queuedFaults k kind p _ hp =>
    exact ((a.carries_dequeue k).trans (Tower.carries_setDrive _ k (.faulted kind p) fun _ => hp)).trans (Tower.carries_drainCheck _)
  | movingFaults k kind p _ hp => exact (a.carries_endMove k (.faulted kind p) hp).trans (Tower.carries_afterMove _)
  | stopsShort k position sheet _ hp =>
    exact ((a.carries_endMove k (.faulted .short (some position)) fun _ => hsome hp).trans (Tower.carries_settleKey _ k sheet)).trans
      (Tower.carries_afterMove _)
  | arrives k position sheet _ hp =>
    exact (((a.carries_endMove k (.idle position) fun _ => hsome hp).trans (Tower.carries_settleKey _ k sheet)).trans
      (Tower.carries_requeue _ k)).trans (Tower.carries_afterMove _)
  | surveys ks _ => exact a.carries_surveyAll ks
  | engage sheets _ hr => exact a.carries_engage sheets hr
  | disengage => exact a.carries_disengage
  | hold _ => exact a.carries_state .held fun h => by simp [Tower.running] at h
  | release _ hr => exact a.carries_release hr
  | counts n => exact a.carries_counters (LoopCounters.plus_sound _ _)

/-! ### A refresh -/

theorem Tower.presetSweep_range (tw : Tower) : 5 ≤ tw.presetSweep ∧ tw.presetSweep ≤ 100 := by
  unfold Tower.presetSweep
  omega

theorem Tower.keeps_presetKey (curves : Vector (List Point) 16) (tw : Tower) (k : Nat) :
    tw.Keeps (tw.updateKey k (tw.presetKey curves k)) where
  config := rfl
  run := rfl
  next := rfl
  length := by simp
  counters := id
  sweeps := id
  port := id
  positions h := h.updateKey k fun key hkey q hq => h key hkey q (by rwa [Tower.presetKey_drive] at hq)
  running := .inl

theorem modify_const {α : Type} (f : α → α) {l : List α} {k : Nat} {a : α} (h : l[k]? = some a) :
    (l.modify k fun _ => f a) = l.modify k f := by
  apply List.ext_getElem?
  intro j
  simp only [List.getElem?_modify]
  by_cases hj : k = j
  · subst hj; simp [h]
  · simp [hj]

theorem Tower.updateKey_of_none {tw : Tower} {k : Nat} (h : tw.keys[k]? = none) (f : KeyRec → KeyRec) :
    tw.updateKey k f = tw := by
  rw [Tower.updateKey, modify_eq_self fun a ha => by rw [h] at ha; cases ha]

/-- A refresh of one key writes its record, and hands a change of its target steps on (R57). -/
theorem Tower.refreshKey_eq (curves : Vector (List Point) 16) (tw : Tower) (k : Nat) :
    tw.refreshKey curves k =
      if (tw.keys[k]?.bind fun key => (tw.presetKey curves k key).steps) = tw.keys[k]?.bind KeyRec.steps then
        tw.updateKey k (tw.presetKey curves k)
      else (tw.updateKey k (tw.presetKey curves k)).targetChange k := by
  unfold Tower.refreshKey
  cases hk : tw.keys[k]? with
  | none => simp [Tower.updateKey_of_none hk]
  | some key =>
    have hwrite : (tw.updateKey k fun _ => tw.presetKey curves k key) = tw.updateKey k (tw.presetKey curves k) := by
      rw [Tower.updateKey, modify_const _ hk, Tower.updateKey]
    simp only [hwrite, Option.bind_some]

theorem Tower.carries_refreshKey (curves : Vector (List Point) 16) (tw : Tower) (k : Nat) :
    (tw.updateKey k (tw.presetKey curves k)).Carries (tw.refreshKey curves k) := by
  rw [Tower.refreshKey_eq]
  split
  · exact .refl _
  · exact Tower.carries_targetChange _ _

theorem Tower.keeps_refreshKeys (curves : Vector (List Point) 16) (ks : List Nat) (tw : Tower) :
    tw.Keeps (ks.foldl (Tower.refreshKey curves) tw) := by
  induction ks generalizing tw with
  | nil => exact .refl tw
  | cons k ks ih => exact ((tw.keeps_presetKey curves k).trans (tw.carries_refreshKey curves k).keeps).trans (ih _)

theorem Tower.keeps_refreshSweep (tw : Tower) : tw.Keeps tw.refreshSweep := by
  rcases tw.refreshSweep_cases with ⟨-, e⟩ | ⟨-, e⟩ <;> rw [e]
  · exact .refl tw
  · refine Tower.Keeps.trans (b := { tw with sweep := if tw.run.complete then some tw.presetSweep else none })
      ⟨rfl, rfl, rfl, rfl, id, fun h => ⟨fun v hv => ?_, h.2⟩, id, id, .inl⟩ (Tower.carries_sweepChange _).keeps
    simp only at hv
    split at hv
    · obtain rfl := Option.some.inj hv
      exact tw.presetSweep_range
    · cases hv

/-- A refresh leaves plates, record and counters, and keeps what it writes in range (R57). -/
theorem Tower.keeps_refresh (curves : Vector (List Point) 16) (ks : List Nat) (sweepToo : Bool) (tw : Tower) :
    tw.Keeps (tw.refresh curves ks sweepToo) := by
  have hkeys := Tower.keeps_refreshKeys curves ks tw
  unfold Tower.refresh
  split
  · exact hkeys.trans (Tower.keeps_refreshSweep _)
  · exact hkeys

end Sys2Proof.Machine

/-! SUPPORT. What an event of the machine makes of each tower, of the curve table, of the Fault List and of the master ports. -/

namespace Sys2Proof.Machine

/-! ### Towers -/

/-- What an event of the machine in state s makes of one tower, where it leaves the curves `curves'`. -/
inductive Tower.Change (s : State) (curves' : Vector (List Point) 16) (tw : Tower) : Tower → Prop where
  | same (hc : curves' = s.curves) : tw.Change s curves' tw
  | event (tw' : Tower) (hc : curves' = s.curves) (he : tw.Event tw') : tw.Change s curves' tw'
  | nextSlot (sl : Slot) (hc : curves' = s.curves) (hsl : s.GeometrySound → sl.Sound tw.z) :
      tw.Change s curves' { tw with next := sl }
  | runSlot (sl : Slot) (hc : curves' = s.curves) (hs : tw.running = false) (hsl : s.GeometrySound → sl.Sound tw.z)
      (hr : (tw.run.complete = false ∧ sl.complete = false) ∨
        (sl.coverage = tw.run.coverage ∧ sl.mirrored = tw.run.mirrored)) : tw.Change s curves' { tw with run := sl }
  | runRefreshed (sl : Slot) (hc : curves' = s.curves) (hs : tw.running = false) (hsl : s.GeometrySound → sl.Sound tw.z) :
      tw.Change s curves' (Tower.refresh curves' tw.allKeys true { tw with run := sl })
  | runNear (sl : Slot) (hc : curves' = s.curves) (hs : tw.running = false) (hsl : s.GeometrySound → sl.Sound tw.z)
      (hm : sl.mirrored = tw.run.mirrored) (hold : tw.run.complete = true) (hnew : sl.complete = true) :
      tw.Change s curves' (Tower.refresh curves'
        (Tower.keysNear { tw with run := sl } (changedZones tw.run.coverage sl.coverage)) true { tw with run := sl })
  | jobChange (keep : Bool) (sheets : Sheet) (hc : curves' = s.curves) (hs : tw.state ≠ .presetting)
      (hn : tw.next.complete = true) :
      tw.Change s curves' (Tower.refresh curves' tw.allKeys true (tw.changeJob keep sheets)).finishJobChange
  | configured (c : TowerConfig) (hc : curves' = s.curves) (hsound : c.Sound) (ha : tw.allowsConfig c = true)
      (hg : c.geometry = tw.config.geometry) (hm : c.metering = tw.config.metering) :
      tw.Change s curves' { tw with config := c }
  | configRefreshed (c : TowerConfig) (hc : curves' = s.curves) (hsound : c.Sound) (ha : tw.allowsConfig c = true)
      (hz : c.geometry.z = tw.z) :
      tw.Change s curves' (Tower.refresh curves' tw.allKeys true { tw with config := c })
  | reshaped (c : TowerConfig) (hc : curves' = s.curves) (hsound : c.Sound) (ha : tw.allowsConfig c = true)
      (hz : c.geometry.z ≠ tw.z) :
      tw.Change s curves' (Tower.refresh curves' (List.range c.geometry.z) true
        (Tower.reshape { tw with config := c } c.geometry.z))
  | trim (k : Nat) (v : Int) (hc : curves' = s.curves) (hv : -300 ≤ v ∧ v ≤ 300) :
      tw.Change s curves' (Tower.refresh curves' [k] false (tw.updateKey k fun key => { key with trim := v }))
  | acc (k : Nat) (v : Int) (hc : curves' = s.curves) (hv : -200 ≤ v ∧ v ≤ 200) :
      tw.Change s curves' (Tower.refresh curves' [k] false (tw.updateKey k fun key => { key with acc := v }))
  | curve (c : CurveIx) (hc : ∀ d, d ≠ c → curves'.get d = s.curves.get d) :
      tw.Change s curves' (tw.refresh curves' (tw.keysOn c) false)
  | restarted : tw.Change s curves' (tw.restarted.refresh curves' tw.allKeys true)
  | powerOn : tw.Change s curves' Tower.powerOn

/-- A tower replaced by what an event may make of it; the others stay. -/
theorem State.change_setTower {s : State} {t : TowerIx} {tw : Tower} (h : (s.tower t).Change s s.curves tw) (u : TowerIx) :
    (s.tower u).Change s (s.setTower t tw).curves ((s.setTower t tw).tower u) := by
  by_cases hu : u = t
  · subst hu
    rwa [State.tower_setTower_same]
  · rw [State.tower_setTower_of_ne s tw hu]
    exact .same rfl

/-- A tower replaced and then refreshed. -/
theorem State.change_refresh {s : State} {t : TowerIx} {tw : Tower} {ks : List Nat} {b : Bool}
    (h : (s.tower t).Change s s.curves (tw.refresh s.curves ks b)) (u : TowerIx) :
    (s.tower u).Change s ((s.setTower t tw).refresh t ks b).curves (((s.setTower t tw).refresh t ks b).tower u) := by
  rw [State.refresh_curves]
  by_cases hu : u = t
  · subst hu
    rwa [State.refresh_tower_same, State.tower_setTower_same]
  · rw [State.refresh_tower_of_ne _ _ _ hu, State.tower_setTower_of_ne s tw hu]
    exact .same rfl

theorem Tower.restarted_z (tw : Tower) : tw.restarted.z = tw.z := (Tower.driveOnly_surveyAll _ _).z

@[simp] theorem State.refreshTower_curves (s : State) (t : TowerIx) : (s.refreshTower t).curves = s.curves :=
  State.refresh_curves ..

theorem State.refreshTower_tower (s : State) (t u : TowerIx) :
    (s.refreshTower t).tower u = if u = t then (s.tower u).refresh s.curves (s.tower u).allKeys true else s.tower u := by
  unfold State.refreshTower
  by_cases hu : u = t
  · subst hu
    simp
  · rw [State.refresh_tower_of_ne _ _ _ hu, if_neg hu]

/-- A refresh of distinct towers, one by one, refreshes each of them on its own (R74, R76). -/
theorem State.refreshTowers_spec (ts : List TowerIx) (hnd : ts.Nodup) (s : State) :
    let u := ts.foldl State.refreshTower s
    u.pending = s.pending ∧ u.sheets = s.sheets ∧ u.curves = s.curves ∧ u.masters = s.masters ∧ u.access = s.access ∧
      u.restartPending = s.restartPending ∧
      ∀ t, u.tower t = if t ∈ ts then (s.tower t).refresh s.curves (s.tower t).allKeys true else s.tower t := by
  induction ts generalizing s with
  | nil => simp
  | cons a ts ih =>
    rw [List.nodup_cons] at hnd
    obtain ⟨h1, h2, h3, h4, h5, h6, h7⟩ := ih hnd.2 (s.refreshTower a)
    refine ⟨h1.trans (State.refresh_pending ..), h2.trans (State.refresh_sheets ..), h3.trans (State.refresh_curves ..),
      h4.trans (State.refresh_masters ..), h5.trans (State.refresh_access ..), h6.trans (State.refresh_restartPending ..),
      fun t => ?_⟩
    rw [List.foldl_cons, h7 t, State.refreshTower_tower, State.refreshTower_curves]
    by_cases hta : t = a
    · subst hta; simp [hnd.1]
    · simp [hta]

/-- What the restart leaves but for the Fault List (R144). -/
theorem State.restart_spec (s : State) :
    s.restart.pending = s.pending ∧ s.restart.sheets = s.sheets ∧ s.restart.curves = s.curves ∧
      s.restart.masters = s.restartBlocks.masters ∧ s.restart.access = s.access ∧ s.restart.restartPending = false ∧
      ∀ t, s.restart.tower t = (s.tower t).restarted.refresh s.curves (s.tower t).allKeys true := by
  obtain ⟨h1, h2, h3, h4, h5, h6, h7⟩ := State.refreshTowers_spec (List.finRange 12) (List.nodup_finRange 12) s.restartBlocks
  have htower : ∀ t, s.restartBlocks.tower t = (s.tower t).restarted := fun t => s.tower_mapTowers Tower.restarted t
  refine ⟨h1, h2, h3, h4, h5, h6, fun t => ?_⟩
  rw [State.restart, h7 t, if_pos (List.mem_finRange t), htower t, Tower.allKeys, Tower.restarted_z]
  rfl

theorem State.jobChange_tower (s : State) (t u : TowerIx) (keep : Bool) :
    (s.jobChange t keep).tower u =
      if u = t then (Tower.refresh s.curves (s.tower u).allKeys true ((s.tower u).changeJob keep s.sheets)).finishJobChange
      else s.tower u := by
  unfold State.jobChange
  simp only [State.tower_setTower, State.refreshTower_tower]
  by_cases hu : u = t
  · subst hu
    simp
    rfl
  · simp [hu]

@[simp] theorem State.jobChange_curves (s : State) (t : TowerIx) (keep : Bool) :
    (s.jobChange t keep).curves = s.curves := by
  simp [State.jobChange]

theorem State.change_configure {s : State} {t : TowerIx} {c : TowerConfig} (hsound : c.Sound)
    (ha : (s.tower t).allowsConfig c = true) (u : TowerIx) :
    (s.tower u).Change s (s.configure t c).curves ((s.configure t c).tower u) := by
  unfold State.configure
  simp only
  by_cases hz : c.geometry.z = (s.tower t).z
  · rw [if_pos hz]
    split
    · next hsame => exact State.change_setTower (.configured c rfl hsound ha hsame.1 hsame.2) u
    · refine State.change_refresh ?_ u
      rw [State.tower_setTower_same, Tower.allKeys, Tower.z, hz]
      exact .configRefreshed c rfl hsound ha hz
  · rw [if_neg hz, if_neg fun h => hz (congrArg Geometry.z h.1)]
    rw [State.refreshTower_curves, State.refreshTower_tower, State.resetContexts_tower]
    by_cases hu : u = t
    · subst hu
      rw [if_pos rfl, State.tower_setTower_same, Tower.allKeys, Tower.z, Tower.reshape_config]
      exact .reshaped c rfl hsound ha hz
    · rw [if_neg hu, State.tower_setTower_of_ne _ _ hu]
      exact .same rfl

/-- Coverage lists of one length that differ in no zone are one list (R22). -/
theorem eq_of_changedZones_nil {old new : List (Option Nat)} (hl : new.length = old.length)
    (h : changedZones old new = []) : old = new := by
  apply List.ext_getElem?
  intro z
  by_cases hz : z < new.length
  · simpa using List.filter_eq_nil_iff.mp h z (List.mem_range.mpr hz)
  · rw [List.getElem?_eq_none (by omega), List.getElem?_eq_none (by omega)]

theorem State.change_storeRun {s : State} {t : TowerIx} {sl : Slot} (hs : (s.tower t).running = false)
    (hsl : s.GeometrySound → sl.Sound (s.tower t).z) (hm : sl.mirrored = (s.tower t).run.mirrored)
    (hl : sl.coverage.length = (s.tower t).run.coverage.length) (u : TowerIx) :
    (s.tower u).Change s (s.storeSlot t .run sl).curves ((s.storeSlot t .run sl).tower u) := by
  unfold State.storeSlot State.handOnCoverage
  simp only [State.tower_setTower_same]
  have hrun : ((s.tower t).setSlot .run sl).run = sl := rfl
  split
  · refine State.change_refresh ?_ u
    rw [State.tower_setTower_same]
    exact .runRefreshed sl rfl hs hsl
  · next hsame =>
    have hsame : (s.tower t).run.complete = sl.complete := by simpa [hrun] using hsame
    split
    · next hnear =>
      have hnew : sl.complete = true := (Bool.and_eq_true _ _ ▸ hnear).1
      exact State.change_refresh (.runNear sl rfl hs hsl hm (hsame.trans hnew) hnew) u
    · next hkept =>
      refine State.change_setTower (.runSlot sl rfl hs hsl ?_) u
      cases hcomplete : sl.complete with
      | false => exact .inl ⟨hsame.trans hcomplete, rfl⟩
      | true =>
        have hnone : changedZones (s.tower t).run.coverage sl.coverage = [] := by simpa [hrun, hcomplete] using hkept
        exact .inr ⟨(eq_of_changedZones_nil hl hnone).symm, hm⟩

/-- A changed curve, with the refresh that follows it (R51, R53, R72). -/
theorem State.change_refreshCurve {s v : State} {c : CurveIx} (htower : ∀ t, v.tower t = s.tower t)
    (hcurves : ∀ d, d ≠ c → v.curves.get d = s.curves.get d) (t : TowerIx) :
    (s.tower t).Change s (v.refreshCurve c).curves ((v.refreshCurve c).tower t) := by
  obtain ⟨-, -, hsame, -, -, -, hrefresh⟩ := v.refreshCurve_spec c
  rw [hrefresh t, hsame, htower t]
  exact .curve c hcurves

/-- What an event of the machine makes of each tower. -/
theorem State.Event.change {s u : State} (h : s.Event u) (t : TowerIx) : (s.tower t).Change s u.curves (u.tower t) := by
  cases h with
  | pending q => exact .same rfl
  | sheets n => exact .same rfl
  | access a ha => exact .same rfl
  | restartAccepted => exact .same rfl
  | faultsTaken n full => exact .same rfl
  | logged kind origin ho => exact .same rfl
  | framer p f hf hp => exact State.setFramer_tower s p f t ▸ .same (State.setFramer_curves ..)
  | reply p body => exact State.sendReply_tower s p body t ▸ .same (State.sendReply_curves ..)
  | release p => exact State.release_tower s p t ▸ .same (State.release_curves ..)
  | ctx p c hc => exact State.setCtx_tower s p c t ▸ .same (State.setCtx_curves ..)
  | cursor p c hc => exact State.setCursor_tower s p c t ▸ .same (State.setCursor_curves ..)
  | tower t' tw he => exact State.change_setTower (.event tw rfl he) t
  | nextSlot t' sl hsl => exact State.change_setTower (.nextSlot sl rfl hsl) t
  | runSlot t' sl hs hsl hr => exact State.change_setTower (.runSlot sl rfl hs hsl hr) t
  | runSlotRefreshed t' sl hs hsl =>
    refine State.change_refresh ?_ t
    rw [State.tower_setTower_same]
    exact .runRefreshed sl rfl hs hsl
  | storeRun t' sl hs hsl hm hl => exact State.change_storeRun hs hsl hm hl t
  | jobChange t' keep hs hn =>
    rw [State.jobChange_tower, State.jobChange_curves]
    split
    · next ht =>
      subst ht
      exact .jobChange keep s.sheets rfl hs hn
    · exact .same rfl
  | configure t' c hc ha => exact State.change_configure hc ha t
  | trim t' k v hv =>
    unfold State.putTrim
    split
    · exact .same rfl
    · exact State.change_refresh (.trim k v rfl hv) t
  | acc t' k key v hk hv =>
    unfold State.putAcc
    split
    · exact .same rfl
    · exact State.change_refresh (.acc k v rfl hv) t
  | commit p held w points hw hp hc =>
    refine State.change_refreshCurve (v := (s.setCurve _ points).setCursor p _) (by simp) (fun d hd => ?_) t
    rw [State.setCursor_curves]
    exact State.curve_setCurve_of_ne s points hd
  | clearCurve c =>
    refine State.change_refreshCurve (s := s) (v := (s.setCurve c []).resetCursors c) (fun _ => rfl) (fun d hd => ?_) t
    exact State.curve_setCurve_of_ne s [] hd
  | restart =>
    obtain ⟨-, -, hcurves, -, -, -, htower⟩ := s.restart_spec
    rw [htower t, hcurves]
    exact .restarted
  | powerOn =>
    have : ({ State.reset with pending := s.pending } : State).tower t = Tower.powerOn := by
      simp [State.tower, State.reset]
    exact this ▸ .powerOn

/-! ### The Fault List -/

section Faults

variable {P : FaultList → Prop} {s u : State}

/-- A refresh logs at most its one CURVE_INCOMPLETE fault (R62). -/
theorem State.refresh_faults_keep (hlog : ∀ l t sheet, P l → P (l.log .curveIncomplete (.tower t) sheet)) (t : TowerIx)
    (ks : List Nat) (b : Bool) (h : P s.faults) : P (s.refresh t ks b).faults := by
  rw [State.refresh_faults]
  split
  · exact hlog _ _ _ h
  · exact h

theorem State.refreshTowers_faults_keep (hlog : ∀ l t sheet, P l → P (l.log .curveIncomplete (.tower t) sheet))
    (ts : List TowerIx) (h : P s.faults) : P (ts.foldl State.refreshTower s).faults := by
  induction ts generalizing s with
  | nil => exact h
  | cons t ts ih => exact ih (State.refresh_faults_keep hlog _ _ _ h)

theorem State.refreshCurve_faults_keep (hlog : ∀ l t sheet, P l → P (l.log .curveIncomplete (.tower t) sheet))
    (c : CurveIx) (h : P s.faults) : P (s.refreshCurve c).faults := by
  rw [State.refreshCurve_faults]
  generalize (List.finRange 12).filter _ = ts
  generalize s.faults = l at h
  induction ts generalizing l with
  | nil => exact h
  | cons t ts ih => exact ih _ (hlog _ _ _ h)

/-- What logging a fault of a key the machine has, taking records and emptying the list keep, every event keeps. -/
theorem State.Event.faults_keep (hempty : P { records := [], full := false })
    (hdrop : ∀ l n full, P l → P { records := l.records.drop n, full := full })
    (hlog : ∀ l kind origin sheet, (∀ t k, origin = .key t k → k < (s.tower t).keys.length) → P l →
      P (l.log kind origin sheet)) (h : s.Event u) (hs : P s.faults) : P u.faults := by
  have hcurve : ∀ l t sheet, P l → P (l.log .curveIncomplete (.tower t) sheet) :=
    fun l t sheet => hlog l _ _ sheet fun _ _ h => by cases h
  cases h with
  | pending q => exact hs
  | sheets n => exact hs
  | access a ha => exact hs
  | restartAccepted => exact hs
  | faultsTaken n full => exact hdrop _ _ _ hs
  | logged kind origin ho => exact hlog _ _ _ _ ho hs
  | framer p f hf hp => exact (s.setFramer_faults p f).symm ▸ hs
  | reply p body => exact (s.sendReply_faults p body).symm ▸ hs
  | release p => exact (s.release_faults p).symm ▸ hs
  | ctx p c hc => exact (s.setCtx_faults p c).symm ▸ hs
  | cursor p c hc => exact (s.setCursor_faults p c).symm ▸ hs
  | tower t tw he => exact hs
  | nextSlot t sl hsl => exact hs
  | runSlot t sl hs' hsl hr => exact hs
  | runSlotRefreshed t sl hs' hsl => exact State.refresh_faults_keep hcurve _ _ _ hs
  | storeRun t sl hs' hsl hm hl =>
    rcases s.storeSlot_cases t .run sl with e | ⟨-, ks, -, e⟩ <;> rw [e]
    · exact hs
    · exact State.refresh_faults_keep hcurve _ _ _ hs
  | jobChange t keep hs' hn => exact State.refresh_faults_keep hcurve (s := s.setTower t _) _ _ _ hs
  | configure t c hc ha =>
    exact State.configure_keeps (P := fun v => P v.faults) (fun v hv => State.refresh_faults_keep hcurve _ _ _ hv)
      (fun _ => hs) fun _ => hs
  | trim t k v hv =>
    unfold State.putTrim
    split
    · exact hs
    · exact State.refresh_faults_keep hcurve (s := s.setTower t _) _ _ _ hs
  | acc t k key v hk hv =>
    unfold State.putAcc
    split
    · exact hs
    · exact State.refresh_faults_keep hcurve (s := s.setTower t _) _ _ _ hs
  | commit p held w points hw hp hc =>
    exact State.refreshCurve_faults_keep hcurve _ ((State.setCursor_faults ..).symm ▸ hs)
  | clearCurve c => exact State.refreshCurve_faults_keep hcurve (s := (s.setCurve c []).resetCursors c) c hs
  | restart => exact State.refreshTowers_faults_keep hcurve _ hempty
  | powerOn => exact hempty

end Faults

/-! ### Zone counts -/

theorem State.z_setTower {s : State} {t : TowerIx} {tw : Tower} (h : tw.z = (s.tower t).z) (u : TowerIx) :
    ((s.setTower t tw).tower u).z = (s.tower u).z := by
  rw [State.tower_setTower]
  split
  · next hu => rw [hu, h]
  · rfl

theorem State.refresh_z (s : State) (t : TowerIx) (ks : List Nat) (b : Bool) (u : TowerIx) :
    ((s.refresh t ks b).tower u).z = (s.tower u).z := by
  by_cases hu : u = t
  · subst hu
    rw [State.refresh_tower_same]
    exact (Tower.keeps_refresh s.curves ks b _).z
  · rw [State.refresh_tower_of_ne _ _ _ hu]

theorem Tower.carries_finishJobChange (tw : Tower) : tw.Carries tw.finishJobChange := by
  have hseek : ∀ (ks : List Nat) (u : Tower), u.Carries (ks.foldl Tower.seekTarget u) := by
    intro ks
    induction ks with
    | nil => exact fun u => .refl u
    | cons k ks ih => exact fun u => (u.carries_seekTarget k).trans (ih _)
  unfold Tower.finishJobChange
  simp only
  split
  · exact ((hseek _ tw).trans (Tower.carries_sweepCheck _)).trans (Tower.carries_drainCheck _)
  · exact hseek _ tw

/-- Every event but POWER_ON changes a tower's Z only with the reset of the contexts that name it (R15). -/
theorem State.Event.resetsContexts {s u : State} (h : s.Event u) :
    s.ResetsContexts u ∨ u = { State.reset with pending := s.pending } := by
  have hrefresh : ∀ {t : TowerIx} {tw : Tower} (ks : List Nat) (b : Bool), tw.z = (s.tower t).z →
      s.ResetsContexts ((s.setTower t tw).refresh t ks b) := fun ks b hz =>
    State.resetsContexts_of_z fun v => (State.refresh_z ..).trans (State.z_setTower hz v)
  cases h with
  | pending q => exact .inl (State.resetsContexts_of_z fun _ => rfl)
  | sheets n => exact .inl (State.resetsContexts_of_z fun _ => rfl)
  | access a ha => exact .inl (State.resetsContexts_of_z fun _ => rfl)
  | restartAccepted => exact .inl (State.resetsContexts_of_z fun _ => rfl)
  | faultsTaken n full => exact .inl (State.resetsContexts_of_z fun _ => rfl)
  | logged kind origin ho => exact .inl (State.resetsContexts_of_z fun _ => rfl)
  | framer p f hf hp => exact .inl (State.resetsContexts_of_z fun t => by simp)
  | reply p body => exact .inl (State.resetsContexts_of_z fun t => by simp)
  | release p => exact .inl (State.resetsContexts_of_z fun t => by simp)
  | ctx p c hc => exact .inl (State.resetsContexts_of_z fun t => by simp)
  | cursor p c hc => exact .inl (State.resetsContexts_of_z fun t => by simp)
  | tower t tw he => exact .inl (State.resetsContexts_of_z (State.z_setTower he.carries.keeps.z))
  | nextSlot t sl hsl => exact .inl (State.resetsContexts_of_z (State.z_setTower rfl))
  | runSlot t sl hs' hsl hr => exact .inl (State.resetsContexts_of_z (State.z_setTower rfl))
  | runSlotRefreshed t sl hs' hsl => exact .inl (hrefresh _ _ rfl)
  | storeRun t sl hs' hsl hm hl =>
    rcases s.storeSlot_cases t .run sl with e | ⟨-, ks, -, e⟩ <;> rw [e]
    · exact .inl (State.resetsContexts_of_z (State.z_setTower rfl))
    · exact .inl (hrefresh _ _ rfl)
  | jobChange t keep hs' hn =>
    refine .inl (State.resetsContexts_of_z fun v => ?_)
    rw [State.jobChange_tower]
    split
    · exact ((Tower.keeps_refresh ..).trans (Tower.carries_finishJobChange _).keeps).z
    · rfl
  | configure t c hc ha => exact .inl (s.configure_resetsContexts t c)
  | trim t k v hv =>
    unfold State.putTrim
    split
    · exact .inl (State.resetsContexts_of_z fun _ => rfl)
    · exact .inl (hrefresh _ _ rfl)
  | acc t k key v hk hv =>
    unfold State.putAcc
    split
    · exact .inl (State.resetsContexts_of_z fun _ => rfl)
    · exact .inl (hrefresh _ _ rfl)
  | commit p held w points hw hp hc =>
    refine .inl (State.resetsContexts_of_z fun v => ?_)
    obtain ⟨-, -, -, -, -, -, htower⟩ := State.refreshCurve_spec
      ((s.setCurve (s.port p).cursor.curve points).setCursor p
        { (s.port p).cursor with index := (s.port p).cursor.index + 1, phase := .even, lastOp := .write })
      (s.port p).cursor.curve
    rw [htower v, State.setCursor_tower]
    exact (Tower.keeps_refresh ..).z
  | clearCurve c =>
    refine .inl (State.resetsContexts_of_z fun v => ?_)
    obtain ⟨-, -, -, -, -, -, htower⟩ := ((s.setCurve c []).resetCursors c).refreshCurve_spec c
    rw [htower v]
    exact (Tower.keeps_refresh ..).z
  | restart =>
    refine .inl (State.resetsContexts_of_z fun v => ?_)
    obtain ⟨-, -, -, -, -, -, htower⟩ := s.restart_spec
    rw [htower v]
    exact (Tower.keeps_refresh ..).z.trans (Tower.restarted_z _)
  | powerOn => exact .inr rfl

/-! ### The master ports -/

/-- What an event that leaves the state u makes of a master port in the state s. -/
inductive MasterPortRec.Change (s u : State) (r : MasterPortRec) : MasterPortRec → Prop where
  | same : r.Change s u r
  | framer (f : Framer) (hf : r.framer.Sound → f.Sound) (hp : r.reply.isSome = true → f.phase = .hunt) :
      r.Change s u { r with framer := f }
  | reply (body : Option (List Byte)) : r.Change s u { r with framer := Framer.hunting, reply := body }
  | ctx (c : WriteContext) (hc : s.GeometrySound → c.Sound (u.tower c.tower).z) : r.Change s u { r with ctx := c }
  | cursor (c : Cursor) (hc : s.CurvesSound → c.Sound) : r.Change s u { r with cursor := c }
  | resetFor (t : TowerIx) : r.Change s u { r with ctx := r.ctx.resetFor t (u.tower t).z }
  | restarted : r.Change s u (r.restarted (u.tower 0).z)
  | powerOn (hu : u = { State.reset with pending := s.pending }) : r.Change s u MasterPortRec.powerOn

/-- One port changed, the others as they were. -/
theorem State.change_setPort {s u v : State} {p : MasterPort} {r : MasterPortRec} (hv : ∀ q, v.port q = s.port q)
    (h : (s.port p).Change s u r) (q : MasterPort) : (s.port q).Change s u ((v.setPort p r).port q) := by
  rw [State.port_setPort]
  split
  · next hq => exact hq ▸ h
  · exact hv q ▸ .same

@[simp] theorem State.jobChange_masters (s : State) (t : TowerIx) (keep : Bool) :
    (s.jobChange t keep).masters = s.masters := by
  simp [State.jobChange, State.refreshTower]

theorem State.restartBlocks_port (s : State) (q : MasterPort) :
    s.restartBlocks.port q = (s.port q).restarted (s.tower 0).z := by
  cases q <;> rfl

theorem Cursor.clearedFor_sound {c : Cursor} (h : c.Sound) (curve : CurveIx) : (c.clearedFor curve).Sound := by
  unfold Cursor.clearedFor
  split
  · exact ⟨Nat.zero_le _, trivial⟩
  · exact h

/-- A configured tower holds the record it was given (R11). -/
theorem State.configure_config (s : State) (t : TowerIx) (c : TowerConfig) : ((s.configure t c).tower t).config = c := by
  refine State.configure_keeps (P := fun u => (u.tower t).config = c) (fun u hu => ?_) (fun _ => ?_) fun _ => ?_
  · rw [State.refreshTower_tower, if_pos rfl]
    exact (Tower.keeps_refresh ..).config.trans hu
  · rw [State.tower_setTower_same]
  · rw [State.resetContexts_tower, State.tower_setTower_same, Tower.reshape_config]

/-- A configured tower leaves every port as it is, or resets the context that names it (R15). -/
theorem State.configure_port (s : State) (t : TowerIx) (c : TowerConfig) (q : MasterPort) :
    (s.configure t c).port q = s.port q ∨
      (s.configure t c).port q = { s.port q with ctx := (s.port q).ctx.resetFor t c.geometry.z } := by
  refine State.configure_keeps (P := fun u => u.port q = s.port q ∨
    u.port q = { s.port q with ctx := (s.port q).ctx.resetFor t c.geometry.z }) (fun u hu => ?_) (fun _ => .inl rfl)
    fun _ => .inr ?_
  · rwa [State.refreshTower, State.port_of_masters (State.refresh_masters ..)]
  · rw [State.resetContexts_port]
    rfl

/-- What an event of the machine makes of each master port. -/
theorem State.Event.port_change {s u : State} (h : s.Event u) (q : MasterPort) : (s.port q).Change s u (u.port q) := by
  have hsame : u.masters = s.masters → (s.port q).Change s u (u.port q) := fun hm => State.port_of_masters hm q ▸ .same
  cases h with
  | pending q' => exact hsame rfl
  | sheets n => exact hsame rfl
  | access a ha => exact hsame rfl
  | restartAccepted => exact hsame rfl
  | faultsTaken n full => exact hsame rfl
  | logged kind origin ho => exact hsame rfl
  | framer p f hf hp => exact State.change_setPort (fun _ => rfl) (.framer f hf hp) q
  | reply p body => exact State.change_setPort (fun _ => rfl) (.reply (some body)) q
  | release p => exact State.change_setPort (fun _ => rfl) (.reply none) q
  | ctx p c hc => exact State.change_setPort (fun _ => rfl) (.ctx c fun hgeo => by simpa using hc hgeo) q
  | cursor p c hc => exact State.change_setPort (fun _ => rfl) (.cursor c hc) q
  | tower t tw he => exact hsame rfl
  | nextSlot t sl hsl => exact hsame rfl
  | runSlot t sl hs' hsl hr => exact hsame rfl
  | runSlotRefreshed t sl hs' hsl => exact hsame (State.refresh_masters ..)
  | storeRun t sl hs' hsl hm hl =>
    rcases s.storeSlot_cases t .run sl with e | ⟨-, ks, -, e⟩
    · exact hsame (by rw [e]; rfl)
    · exact hsame (by rw [e, State.refresh_masters]; rfl)
  | jobChange t keep hs' hn => exact hsame (by simp)
  | configure t c hc ha =>
    rcases s.configure_port t c q with hport | hport <;> rw [hport]
    · exact .same
    · have hz : c.geometry.z = ((s.configure t c).tower t).z := by rw [Tower.z, State.configure_config]
      rw [hz]
      exact .resetFor t
  | trim t k v hv => exact hsame (s.putTrim_frame t k v).2.2.2
  | acc t k key v hk hv =>
    refine hsame ?_
    unfold State.putAcc
    split
    · rfl
    · exact State.refresh_masters ..
  | commit p held w points hw hp hc =>
    obtain ⟨-, -, -, hmasters, -, -, -⟩ := State.refreshCurve_spec
      ((s.setCurve (s.port p).cursor.curve points).setCursor p
        { (s.port p).cursor with index := (s.port p).cursor.index + 1, phase := .even, lastOp := .write })
      (s.port p).cursor.curve
    rw [State.port_of_masters hmasters]
    have hcursor : s.CurvesSound → Cursor.Sound
        { (s.port p).cursor with index := (s.port p).cursor.index + 1, phase := .even, lastOp := .write } :=
      fun hsound => ⟨commitPoint_index (hsound.1 _).1 hc, trivial⟩
    exact State.change_setPort (s := s) (v := s.setCurve (s.port p).cursor.curve points) (fun _ => rfl) (.cursor _ hcursor) q
  | clearCurve c =>
    obtain ⟨-, -, -, hmasters, -, -, -⟩ := ((s.setCurve c []).resetCursors c).refreshCurve_spec c
    rw [State.port_of_masters hmasters, State.resetCursors_port]
    exact .cursor _ fun hsound => Cursor.clearedFor_sound (hsound.2 q) c
  | restart =>
    obtain ⟨-, -, -, hmasters, -, -, htower⟩ := s.restart_spec
    rw [State.port_of_masters hmasters, State.restartBlocks_port]
    have hz : (s.tower 0).z = (s.restart.tower 0).z := by
      rw [htower 0, (Tower.keeps_refresh ..).z, Tower.restarted_z]
    rw [hz]
    exact .restarted
  | powerOn =>
    have : ({ State.reset with pending := s.pending } : State).port q = MasterPortRec.powerOn := by cases q <;> rfl
    exact this ▸ .powerOn rfl

end Sys2Proof.Machine

/-! SUPPORT. The geometry, the curve table, the Fault List and the lines, kept by every event of the machine. -/

namespace Sys2Proof.Machine

/-! ### The shape of towers -/

theorem Tower.Keeps.shape {a b : Tower} (h : a.Keeps b) (ha : a.ShapeSound) : b.ShapeSound := by
  obtain ⟨hconfig, hlength, hrun, hnext⟩ := ha
  exact ⟨h.config ▸ hconfig, h.length.trans (hlength.trans h.z.symm), h.z ▸ h.run ▸ hrun, h.z ▸ h.next ▸ hnext⟩

theorem TowerConfig.Sound.z_range {c : TowerConfig} (h : c.Sound) : 16 ≤ c.geometry.z ∧ c.geometry.z ≤ 48 := by
  have htable := c.inRange_iff.mp h.1
  unfold TowerConfig.InTable at htable
  omega

/-- A reshaped tower has the new zone count in its keys and its slots (R15). -/
theorem Tower.reshape_shape {tw : Tower} (hconfig : tw.config.Sound) : (tw.reshape tw.z).ShapeSound := by
  refine (Tower.carries_surveyAll _ _).keeps.shape ⟨hconfig, ?_, Slot.emptied_sound _, Slot.emptied_sound _⟩
  show (tw.keys.take tw.z ++ List.replicate (tw.z - tw.keys.length) KeyRec.fresh).length = tw.z
  rw [List.length_append, List.length_take, List.length_replicate]
  omega

theorem Tower.restarted_shape {tw : Tower} (h : tw.ShapeSound) : tw.restarted.ShapeSound := by
  obtain ⟨hconfig, hlength, hrun, hnext⟩ := h
  exact (Tower.carries_surveyAll _ _).keeps.shape ⟨hconfig, (List.length_map _).trans hlength, hrun, hnext⟩

theorem Tower.powerOn_shape : Tower.powerOn.ShapeSound :=
  ⟨by unfold TowerConfig.Sound; decide, by decide, Slot.emptied_sound _, Slot.emptied_sound _⟩

theorem Tower.updateKey_shape {tw : Tower} (h : tw.ShapeSound) (k : Nat) (f : KeyRec → KeyRec) : (tw.updateKey k f).ShapeSound := by
  obtain ⟨hconfig, hlength, hrun, hnext⟩ := h
  exact ⟨hconfig, (List.length_modify ..).trans hlength, hrun, hnext⟩

theorem Tower.changeJob_shape {tw : Tower} (h : tw.ShapeSound) (keep : Bool) (sheets : Sheet) :
    (tw.changeJob keep sheets).ShapeSound := by
  obtain ⟨hconfig, hlength, -, hnext⟩ := h
  exact ⟨hconfig, (List.length_map _).trans hlength, hnext, hnext.1 ▸ Slot.emptied_sound _⟩

/-- A sound record of the same Z keeps a tower's shape (R14). -/
theorem Tower.configured_shape {tw : Tower} {c : TowerConfig} (hsound : c.Sound) (hz : c.geometry.z = tw.z)
    (h : tw.ShapeSound) : Tower.ShapeSound { tw with config := c } := by
  obtain ⟨-, hlength, hrun, hnext⟩ := h
  rw [← hz] at hlength hrun hnext
  exact ⟨hsound, hlength, hrun, hnext⟩

/-- Every event keeps a tower's shape (R2, R3, R6, R18). -/
theorem Tower.Change.shape {s : State} {curves' : Vector (List Point) 16} {tw tw' : Tower} (h : tw.Change s curves' tw')
    (hs : s.GeometrySound) (htw : tw.ShapeSound) : tw'.ShapeSound := by
  have hrefresh : ∀ (ks : List Nat) (b : Bool) {u : Tower}, u.ShapeSound → (u.refresh curves' ks b).ShapeSound :=
    fun ks b u => (Tower.keeps_refresh curves' ks b u).shape
  obtain ⟨hconfig, hlength, hrun, hnext⟩ := htw
  cases h with
  | same hc => exact ⟨hconfig, hlength, hrun, hnext⟩
  | event tw' hc he => exact he.carries.keeps.shape ⟨hconfig, hlength, hrun, hnext⟩
  | nextSlot sl hc hsl => exact ⟨hconfig, hlength, hrun, hsl hs⟩
  | runSlot sl hc hstop hsl hr => exact ⟨hconfig, hlength, hsl hs, hnext⟩
  | runRefreshed sl hc hstop hsl => exact hrefresh _ _ ⟨hconfig, hlength, hsl hs, hnext⟩
  | runNear sl hc hstop hsl hm hold hnew => exact hrefresh _ _ ⟨hconfig, hlength, hsl hs, hnext⟩
  | jobChange keep sheets hc hst hn =>
    exact (Tower.carries_finishJobChange _).keeps.shape
      (hrefresh _ _ (Tower.changeJob_shape ⟨hconfig, hlength, hrun, hnext⟩ keep sheets))
  | configured c hc hsound ha hg hm =>
    have hz : c.geometry.z = tw.z := congrArg Geometry.z hg
    exact Tower.configured_shape hsound hz ⟨hconfig, hlength, hrun, hnext⟩
  | configRefreshed c hc hsound ha hz => exact hrefresh _ _ (Tower.configured_shape hsound hz ⟨hconfig, hlength, hrun, hnext⟩)
  | reshaped c hc hsound ha hz => exact hrefresh _ _ (Tower.reshape_shape (tw := { tw with config := c }) hsound)
  | trim k v hc hv => exact hrefresh _ _ (Tower.updateKey_shape ⟨hconfig, hlength, hrun, hnext⟩ _ _)
  | acc k v hc hv => exact hrefresh _ _ (Tower.updateKey_shape ⟨hconfig, hlength, hrun, hnext⟩ _ _)
  | curve c hc => exact hrefresh _ _ ⟨hconfig, hlength, hrun, hnext⟩
  | restarted => exact hrefresh _ _ (Tower.restarted_shape ⟨hconfig, hlength, hrun, hnext⟩)
  | powerOn => exact Tower.powerOn_shape

/-! ### Write contexts -/

theorem WriteContext.initial_sound {z : Nat} (hz : 0 < z) : (WriteContext.initial z).Sound z :=
  ⟨Nat.zero_le _, Nat.sub_lt hz Nat.one_pos, fun q hq => by cases hq; exact ⟨Nat.le_refl _, Nat.zero_le _⟩⟩

theorem WriteContext.resetFor_sound {c : WriteContext} {z : Nat} (t : TowerIx) (hz : 0 < z) (hc : c.tower = t) :
    (c.resetFor t z).Sound z := by
  unfold WriteContext.resetFor
  rw [if_pos hc]
  exact WriteContext.placed_sound (Nat.zero_le _) (Nat.sub_lt hz Nat.one_pos)

theorem WriteContext.placed_tower (c : WriteContext) : c.placed.tower = c.tower := by
  unfold WriteContext.placed
  split <;> rfl

theorem WriteContext.resetFor_tower (c : WriteContext) (t : TowerIx) (z : Nat) : (c.resetFor t z).tower = c.tower := by
  unfold WriteContext.resetFor
  split
  · exact WriteContext.placed_tower _
  · rfl

/-- Every event keeps every write context inside its tower (R23, R15). -/
theorem State.Event.ctx_sound {s u : State} (h : s.Event u) (hs : s.GeometrySound)
    (hshape : ∀ t, (u.tower t).ShapeSound) (q : MasterPort) : (u.port q).ctx.Sound (u.tower (u.port q).ctx.tower).z := by
  have hpos : ∀ t, 0 < (u.tower t).z := fun t => by have := (hshape t).1.z_range; simp only [Tower.z]; omega
  have hreset : (∀ t, (u.tower t).z ≠ (s.tower t).z → (u.port q).ctx = (s.port q).ctx.resetFor t (u.tower t).z) ∨
      (u.port q = MasterPortRec.powerOn ∧ (u.tower 0).z = Tower.powerOn.z) := by
    rcases h.resetsContexts with hreset | rfl
    · exact .inl fun t => hreset t q
    · exact .inr ⟨by cases q <;> rfl, rfl⟩
  have hold := hs.2 q
  have hchange := h.port_change q
  generalize u.port q = r at hreset hchange
  have hkept : r.ctx = (s.port q).ctx → r.ctx.Sound (u.tower r.ctx.tower).z := fun hctx => by
    rcases hreset with hreset | ⟨rfl, hz⟩
    · by_cases hz : (u.tower r.ctx.tower).z = (s.tower r.ctx.tower).z
      · rwa [hz, hctx]
      · rw [hreset _ hz, WriteContext.resetFor_tower, hctx]
        exact WriteContext.resetFor_sound _ (hpos _) rfl
    · show MasterPortRec.powerOn.ctx.Sound (u.tower 0).z
      rw [hz]
      exact WriteContext.initial_sound (z := Tower.powerOn.z) (by decide)
  cases hchange with
  | same => exact hkept rfl
  | framer f hf hp => exact hkept rfl
  | reply body => exact hkept rfl
  | ctx c hc => exact hc hs
  | cursor c hc => exact hkept rfl
  | resetFor t =>
    by_cases ht : (s.port q).ctx.tower = t
    · simp only [WriteContext.resetFor_tower, ht]
      exact WriteContext.resetFor_sound _ (hpos _) ht
    · exact hkept (if_neg ht)
  | restarted => exact WriteContext.initial_sound (hpos 0)
  | powerOn hu =>
    subst hu
    exact WriteContext.initial_sound (hpos 0)

theorem State.Event.geometrySound {s u : State} (h : s.Event u) (hs : s.GeometrySound) : u.GeometrySound := by
  have hshape : ∀ t, (u.tower t).ShapeSound := fun t => (h.change t).shape hs (hs.1 t)
  exact ⟨hshape, h.ctx_sound hs hshape⟩

/-- Settles O55, event by event: what an event makes of each tower keeps its shape, and a change of Z resets the contexts that name
the tower. -/
theorem everyStepKeepsGeometry : Obligations.EveryStepKeepsGeometry :=
  fun _ _ hs h => step_keeps (fun _ _ => State.Event.geometrySound) h hs

/-! ### The curve table and the Fault List -/

/-- A refresh after a changed curve leaves the curve table as the change left it (R51, R53). -/
theorem State.refreshCurve_curve (s : State) (c d : CurveIx) : (s.refreshCurve c).curve d = s.curve d := by
  obtain ⟨-, -, hcurves, -⟩ := s.refreshCurve_spec c
  rw [State.curve, hcurves, State.curve]

theorem State.curve_setCurve_sound {s : State} (hs : ∀ c, CurveSound (s.curve c)) (c : CurveIx) {points : List Point}
    (h : CurveSound points) (d : CurveIx) : CurveSound ((s.setCurve c points).curve d) := by
  by_cases hd : d = c
  · subst hd
    rwa [State.curve_setCurve_same]
  · rw [State.curve_setCurve_of_ne s points hd]
    exact hs d

theorem curveSound_nil : CurveSound [] := ⟨Nat.zero_le _, .nil, fun _ hq => nomatch hq⟩

/-- Only a commit, a CURVE CLEAR and POWER_ON change a curve, and each leaves it sound (R40, R49, R53, R138). -/
theorem State.Event.curve_sound {s u : State} (h : s.Event u) (hs : s.CurvesSound) (d : CurveIx) : CurveSound (u.curve d) := by
  obtain ⟨hcurve, hcursor⟩ := hs
  have hkept : u.curves = s.curves → CurveSound (u.curve d) := fun hc => by simpa only [State.curve, hc] using hcurve d
  cases h with
  | pending q => exact hcurve d
  | sheets n => exact hcurve d
  | access a ha => exact hcurve d
  | restartAccepted => exact hcurve d
  | faultsTaken n full => exact hcurve d
  | logged kind origin ho => exact hcurve d
  | framer p f hf hp => exact hkept (State.setFramer_curves ..)
  | reply p body => exact hkept (State.sendReply_curves ..)
  | release p => exact hkept (State.release_curves ..)
  | ctx p c hc => exact hkept (State.setCtx_curves ..)
  | cursor p c hc => exact hkept (State.setCursor_curves ..)
  | tower t tw he => exact hcurve d
  | nextSlot t sl hsl => exact hcurve d
  | runSlot t sl hs' hsl hr => exact hcurve d
  | runSlotRefreshed t sl hs' hsl => exact hkept (State.refreshTower_curves ..)
  | storeRun t sl hs' hsl hm hl =>
    rcases s.storeSlot_cases t .run sl with e | ⟨-, ks, -, e⟩
    · exact hkept (by rw [e]; rfl)
    · exact hkept (by rw [e, State.refresh_curves]; rfl)
  | jobChange t keep hs' hn => exact hkept (State.jobChange_curves ..)
  | configure t c hc ha =>
    exact hkept (State.configure_keeps (P := fun v => v.curves = s.curves)
      (fun v hv => (v.refreshTower_curves t).trans hv) (fun _ => rfl) fun _ => rfl)
  | trim t k v hv =>
    refine hkept ?_
    unfold State.putTrim
    split
    · rfl
    · exact State.refresh_curves ..
  | acc t k key v hk hv =>
    refine hkept ?_
    unfold State.putAcc
    split
    · rfl
    · exact State.refresh_curves ..
  | commit p held w points hw hp hc =>
    rw [State.refreshCurve_curve, State.curve, State.setCursor_curves]
    have hheld : held ≤ 1000 := by
      have := (hcursor p).2
      rwa [hp] at this
    exact State.curve_setCurve_sound hcurve _ (commitPoint_sound (hcurve _) hheld hw hc) d
  | clearCurve c =>
    rw [State.refreshCurve_curve]
    exact State.curve_setCurve_sound hcurve c curveSound_nil d
  | restart => exact hkept s.restart_spec.2.2.1
  | powerOn =>
    have : ({ State.reset with pending := s.pending } : State).curve d = [] := by simp [State.curve, State.reset]
    rw [this]
    exact curveSound_nil

theorem State.Event.curvesSound {s u : State} (h : s.Event u) (hs : s.CurvesSound) : u.CurvesSound := by
  refine ⟨h.curve_sound hs, fun q => ?_⟩
  · have hold := hs.2 q
    have hchange := h.port_change q
    generalize u.port q = r at hchange
    cases hchange with
    | same => exact hold
    | framer f hf hp => exact hold
    | reply body => exact hold
    | ctx c hc => exact hold
    | cursor c hc => exact hc hs
    | resetFor t => exact hold
    | restarted => exact ⟨Nat.zero_le _, trivial⟩
    | powerOn hu => exact ⟨Nat.zero_le _, trivial⟩

theorem FaultList.drop_sound {l : FaultList} (h : l.Sound) (n : Nat) (full : Bool) :
    FaultList.Sound { records := l.records.drop n, full := full } := by
  obtain ⟨hlength, hdistinct, hcount⟩ := h
  refine ⟨?_, hdistinct.sublist (List.drop_sublist n _), fun r hr => hcount r (List.mem_of_mem_drop hr)⟩
  have : (l.records.drop n).length = l.records.length - n := List.length_drop
  simp only
  omega

theorem State.Event.faultsSound {s u : State} (h : s.Event u) (hs : s.faults.Sound) : u.faults.Sound :=
  h.faults_keep (P := FaultList.Sound) ⟨Nat.zero_le _, .nil, fun _ hr => nomatch hr⟩ (fun _ n full hl => FaultList.drop_sound hl n full)
    (fun _ kind origin sheet _ hl => FaultList.log_sound hl kind origin sheet) hs

/-- Settles O56: a commit keeps its curve ascending and in range, and logging keeps the list distinct, short and counted. -/
theorem everyStepKeepsCurvesAndFaults : Obligations.EveryStepKeepsCurvesAndFaults :=
  fun _ _ h => ⟨step_keeps (fun _ _ => State.Event.curvesSound) h, step_keeps (fun _ _ => State.Event.faultsSound) h⟩

/-! ### The lines -/

theorem Tower.powerOn_port : Tower.powerOn.port.Sound := ⟨Framer.hunting_sound, fun h => nomatch h⟩

theorem Tower.restarted_port (tw : Tower) : tw.restarted.port.Sound :=
  (Tower.carries_surveyAll _ _).keeps.port ⟨Framer.hunting_sound, fun _ => rfl⟩

theorem Tower.reshape_port {tw : Tower} (z : Nat) (h : tw.port.Sound) : (tw.reshape z).port.Sound :=
  (Tower.carries_surveyAll _ _).keeps.port h

/-- Every event keeps a tower's drive port sound (R129, R143). -/
theorem Tower.Change.port {s : State} {curves' : Vector (List Point) 16} {tw tw' : Tower} (h : tw.Change s curves' tw')
    (htw : tw.port.Sound) : tw'.port.Sound := by
  have hrefresh : ∀ (ks : List Nat) (b : Bool) {u : Tower}, u.port.Sound → (u.refresh curves' ks b).port.Sound :=
    fun ks b u => (Tower.keeps_refresh curves' ks b u).port
  cases h with
  | same hc => exact htw
  | event tw' hc he => exact he.carries.keeps.port htw
  | nextSlot sl hc hsl => exact htw
  | runSlot sl hc hstop hsl hr => exact htw
  | runRefreshed sl hc hstop hsl => exact hrefresh _ _ htw
  | runNear sl hc hstop hsl hm hold hnew => exact hrefresh _ _ htw
  | jobChange keep sheets hc hst hn => exact (Tower.carries_finishJobChange _).keeps.port (hrefresh _ _ htw)
  | configured c hc hsound ha hg hm => exact htw
  | configRefreshed c hc hsound ha hz => exact hrefresh _ _ htw
  | reshaped c hc hsound ha hz => exact hrefresh _ _ (Tower.reshape_port _ htw)
  | trim k v hc hv => exact hrefresh _ _ htw
  | acc k v hc hv => exact hrefresh _ _ htw
  | curve c hc => exact hrefresh _ _ htw
  | restarted => exact hrefresh _ _ tw.restarted_port
  | powerOn => exact Tower.powerOn_port

/-- A busy port's framer is in HUNT, and its timer runs exactly outside HUNT (R148, R146, R147). -/
def MasterPortRec.LineSound (r : MasterPortRec) : Prop :=
  (r.reply.isSome = true → r.framer.phase = .hunt) ∧ r.framer.Sound

theorem MasterPortRec.powerOn_line : MasterPortRec.powerOn.LineSound := ⟨fun _ => rfl, Framer.hunting_sound⟩

theorem MasterPortRec.Change.line {s u : State} {r r' : MasterPortRec} (h : r.Change s u r') (hr : r.LineSound) :
    r'.LineSound := by
  cases h with
  | same => exact hr
  | framer f hf hp => exact ⟨hp, hf hr.2⟩
  | reply body => exact ⟨fun _ => rfl, Framer.hunting_sound⟩
  | ctx c hc => exact hr
  | cursor c hc => exact hr
  | resetFor t => exact hr
  | restarted => exact hr
  | powerOn hu => exact MasterPortRec.powerOn_line

theorem State.Event.linksSound {s u : State} (h : s.Event u) (hs : s.LinksSound) : u.LinksSound :=
  ⟨fun p => (h.port_change p).line (hs.1 p), fun t => (h.change t).port (hs.2 t)⟩

/-- Settles O60, event by event, port by port and tower by tower. -/
theorem everyStepKeepsLinks : Obligations.EveryStepKeepsLinks :=
  fun _ _ hs h => step_keeps (fun _ _ => State.Event.linksSound) h hs

end Sys2Proof.Machine

/-! SUPPORT. What the Preset Engine writes lies in its ranges, and every event of the machine keeps targets and ranges. -/

namespace Sys2Proof.Machine

/-! ### Effective coverage (R59) -/

theorem Tower.coverageUnder_le {tw : Tower} (hrun : tw.run.Sound tw.z) (k : Nat) : tw.coverageUnder k ≤ 1000 := by
  unfold Tower.coverageUnder
  cases hz : tw.run.zone (tw.zoneOf k) with
  | none => simp
  | some v => simpa using Slot.zone_le hrun _ v hz

/-- A weighted sum of values within a bound lies within the bound times the weights. -/
theorem weightedSum_le {c : Nat → Nat} {b : Nat} (hc : ∀ j, c j ≤ b) (parts : List (Nat × Nat)) :
    (parts.map fun jw => jw.2 * c jw.1).sum ≤ b * (parts.map Prod.snd).sum := by
  induction parts with
  | nil => simp
  | cons jw parts ih =>
    have hone : jw.2 * c jw.1 ≤ b * jw.2 := by
      rw [Nat.mul_comm b]
      exact Nat.mul_le_mul_left _ (hc _)
    simp only [List.map_cons, List.sum_cons, Nat.mul_add]
    omega

/-- A key feeds itself with the weight w0 (R59). -/
theorem Tower.mem_spread_self {tw : Tower} {k : Nat} (hk : k < tw.z) : (k, tw.config.metering.w0) ∈ tw.spread k := by
  simp [Tower.spread, hk, sameRegion]

theorem Tower.weights_pos {tw : Tower} (hc : tw.config.Sound) {k : Nat} (hk : k < tw.z) :
    0 < ((tw.spread k).map Prod.snd).sum := by
  have htable := tw.config.inRange_iff.mp hc.1
  unfold TowerConfig.InTable at htable
  have hmem : tw.config.metering.w0 ≤ ((tw.spread k).map Prod.snd).sum :=
    List.le_sum_of_mem (List.mem_map.mpr ⟨_, Tower.mem_spread_self hk, rfl⟩)
  omega

/-- An effective coverage lies within 0..1000 (R59). -/
theorem Tower.effectiveCoverage_le {tw : Tower} (hc : tw.config.Sound) (hrun : tw.run.Sound tw.z) {k : Nat} (hk : k < tw.z) :
    tw.effectiveCoverage k ≤ 1000 :=
  roundHalfUp_le (Tower.weights_pos hc hk) (weightedSum_le (Tower.coverageUnder_le hrun) _)

/-! ### What a refresh writes -/

/-- What the Preset Engine writes of a key and the corrections it reads lie in their ranges (R55, R59, R77, R95). -/
def KeyRec.PresetSound (c : TowerConfig) (key : KeyRec) : Prop :=
  key.CorrectionsSound ∧ (∀ g ∈ key.target, g.FitsConfig c) ∧ ∀ e ∈ key.effective, e ≤ 1000

def Tower.PresetSound (tw : Tower) : Prop := ∀ key ∈ tw.keys, key.PresetSound tw.config

/-- Trims and accumulators of a tower lie in their ranges (R77, R95). -/
def Tower.CorrectionsSound (tw : Tower) : Prop := ∀ key ∈ tw.keys, key.CorrectionsSound

theorem Tower.PresetSound.corrections {tw : Tower} (h : tw.PresetSound) : tw.CorrectionsSound := fun key hkey => (h key hkey).1

/-- Keys that agree in what a refresh reads and writes have it in its ranges together. -/
theorem Tower.forall_keys_of_preset {a b : Tower} {P : KeyRec → Prop} (hP : ∀ key, P key ↔ P key.preset)
    (h : b.keys.map KeyRec.preset = a.keys.map KeyRec.preset) (ha : ∀ key ∈ a.keys, P key) : ∀ key ∈ b.keys, P key := by
  intro key hkey
  have hmem : key.preset ∈ a.keys.map KeyRec.preset := h ▸ List.mem_map_of_mem hkey
  obtain ⟨key', hkey', e⟩ := List.mem_map.mp hmem
  rw [hP, ← e, ← hP]
  exact ha key' hkey'

theorem Tower.Carries.presetSound {a b : Tower} (h : a.Carries b) (ha : a.PresetSound) : b.PresetSound := by
  unfold Tower.PresetSound
  rw [h.keeps.config]
  exact Tower.forall_keys_of_preset (fun _ => Iff.rfl) h.keys ha

theorem Tower.Carries.corrections {a b : Tower} (h : a.Carries b) (ha : a.CorrectionsSound) : b.CorrectionsSound :=
  Tower.forall_keys_of_preset (fun _ => Iff.rfl) h.keys ha

theorem Tower.presetKey_presetSound (curves : Vector (List Point) 16) {tw : Tower} (hshape : tw.ShapeSound) {k : Nat} {key : KeyRec}
    (hk : tw.keys[k]? = some key) (hkey : key.CorrectionsSound) : (tw.presetKey curves k key).PresetSound tw.config := by
  obtain ⟨hconfig, hlength, hrun, -⟩ := hshape
  have hlt : k < tw.z := hlength ▸ (List.getElem?_eq_some_iff.mp hk).1
  refine ⟨?_, Tower.presetKey_fits curves hconfig k, fun e he => ?_⟩
  · unfold KeyRec.CorrectionsSound
    rwa [Tower.presetKey_trim, Tower.presetKey_acc]
  · unfold Tower.presetKey at he
    split at he
    · obtain rfl := Option.some.inj he
      exact Tower.effectiveCoverage_le hconfig hrun hlt
    · cases he

/-- The key records a refresh leaves, but for what the Key Drive Unit owns: written where the set has the key (R57). -/
theorem Tower.refresh_key_some {curves : Vector (List Point) 16} {ks : List Nat} (hnd : ks.Nodup) {b : Bool} {tw : Tower} {k : Nat}
    {key' : KeyRec} (h : (tw.refresh curves ks b).keys[k]? = some key') :
    ∃ key, tw.keys[k]? = some key ∧ key'.preset = (if k ∈ ks then tw.presetKey curves k key else key).preset := by
  have hmap := Tower.refresh_key curves hnd b tw k
  rw [h] at hmap
  obtain ⟨key, hkey, e⟩ := Option.map_eq_some_iff.mp hmap.symm
  refine ⟨key, hkey, ?_⟩
  rw [← KeyRec.preset_undriven, ← e, KeyRec.preset_undriven]

/-- A refresh leaves every key it writes in its ranges; the others must have been (R55, R59). -/
theorem Tower.refresh_presetSound (curves : Vector (List Point) 16) {ks : List Nat} (hnd : ks.Nodup) (b : Bool) {tw : Tower}
    (hshape : tw.ShapeSound) (hcorr : tw.CorrectionsSound)
    (hrest : ∀ k key, tw.keys[k]? = some key → k ∉ ks → key.PresetSound tw.config) : (tw.refresh curves ks b).PresetSound := by
  intro key' hkey'
  rw [(Tower.keeps_refresh curves ks b tw).config]
  obtain ⟨k, hlt, rfl⟩ := List.getElem_of_mem hkey'
  obtain ⟨key, hkey, e⟩ := Tower.refresh_key_some hnd (List.getElem?_eq_getElem hlt)
  have hsound : (if k ∈ ks then tw.presetKey curves k key else key).PresetSound tw.config := by
    split
    · exact Tower.presetKey_presetSound curves hshape hkey (hcorr key (List.mem_of_getElem? hkey))
    · next hk => exact hrest k key hkey hk
  show KeyRec.PresetSound tw.config (KeyRec.preset _)
  rw [e]
  exact hsound

/-- A refresh of every key leaves every key in its ranges (R70, R71, R74). -/
theorem Tower.refreshAll_presetSound (curves : Vector (List Point) 16) (b : Bool) {tw : Tower} (hshape : tw.ShapeSound)
    (hcorr : tw.CorrectionsSound) : (tw.refresh curves tw.allKeys b).PresetSound := by
  refine Tower.refresh_presetSound curves List.nodup_range b hshape hcorr fun k key hk hnot => ?_
  have hlt : k < tw.z := hshape.2.1 ▸ (List.getElem?_eq_some_iff.mp hk).1
  exact absurd (List.mem_range.mpr hlt) hnot

end Sys2Proof.Machine

/-! SUPPORT. Targets and ranges, kept by every event of the machine. -/

namespace Sys2Proof.Machine

theorem KeyRec.fresh_presetSound (c : TowerConfig) : KeyRec.fresh.PresetSound c :=
  ⟨by unfold KeyRec.CorrectionsSound; decide, (fun _ h => nomatch h), (fun _ h => nomatch h)⟩

theorem Tower.powerOn_presetSound : Tower.powerOn.PresetSound := fun key hkey => by
  rw [List.eq_of_mem_replicate hkey]
  exact KeyRec.fresh_presetSound _

theorem Tower.reshape_corrections {tw : Tower} (h : tw.CorrectionsSound) (z : Nat) : (tw.reshape z).CorrectionsSound := by
  refine (Tower.carries_surveyAll _ _).corrections fun key hkey => ?_
  rcases List.mem_append.mp hkey with hold | hnew
  · exact h key (List.mem_of_mem_take hold)
  · rw [List.eq_of_mem_replicate hnew]
    exact (KeyRec.fresh_presetSound TowerConfig.powerOn).1

theorem Tower.restarted_corrections {tw : Tower} (h : tw.CorrectionsSound) : tw.restarted.CorrectionsSound := by
  refine (Tower.carries_surveyAll _ _).corrections fun key hkey => ?_
  obtain ⟨old, hold, rfl⟩ := List.mem_map.mp hkey
  obtain ⟨hlo, hhi, -, -⟩ := h old hold
  exact ⟨hlo, hhi, by simp, by simp⟩

theorem Tower.changeJob_corrections {tw : Tower} (h : tw.CorrectionsSound) (keep : Bool) (sheets : Sheet) :
    (tw.changeJob keep sheets).CorrectionsSound := by
  intro key hkey
  obtain ⟨old, hold, rfl⟩ := List.mem_map.mp hkey
  obtain ⟨hlo, hhi, -, -⟩ := h old hold
  cases keep with
  | true => exact ⟨hlo, hhi, by simp, by simp⟩
  | false => exact ⟨by simp, by simp, by simp, by simp⟩

/-- A correction changed within its range and its key refreshed leave every key in its ranges (R73, R77, R95). -/
theorem Tower.corrected_presetSound (curves : Vector (List Point) 16) {tw : Tower} (hshape : tw.ShapeSound) (h : tw.PresetSound)
    (k : Nat) {f : KeyRec → KeyRec} (hf : ∀ key : KeyRec, key.CorrectionsSound → (f key).CorrectionsSound) :
    (Tower.refresh curves [k] false (tw.updateKey k f)).PresetSound := by
  refine Tower.refresh_presetSound curves (List.nodup_singleton k) false (Tower.updateKey_shape hshape _ _) ?_ ?_
  · intro key hkey
    obtain ⟨j, hlt, rfl⟩ := List.getElem_of_mem hkey
    have hlt' : j < tw.keys.length := by simpa using hlt
    have hj := h.corrections tw.keys[j] (List.getElem_mem hlt')
    simp only [Tower.updateKey, List.getElem_modify]
    split
    · exact hf _ hj
    · exact hj
  · intro j key hj hne
    have hne : k ≠ j := fun e => hne (by simp [e])
    simp only [Tower.updateKey, List.getElem?_modify, hne, if_false] at hj
    exact h key (List.mem_of_getElem? (by simpa using hj))

/-- Every event keeps targets, effective coverages and corrections in their ranges (R55, R59, R67, R77, R95). -/
theorem Tower.Change.presetSound {s : State} {curves' : Vector (List Point) 16} {tw tw' : Tower} (h : tw.Change s curves' tw')
    (hs : s.GeometrySound) (hshape : tw.ShapeSound) (htw : tw.PresetSound) : tw'.PresetSound := by
  have ⟨hconfig, hlength, hrun, hnext⟩ := hshape
  cases h with
  | same hc => exact htw
  | event tw' hc he => exact he.carries.presetSound htw
  | nextSlot sl hc hsl => exact htw
  | runSlot sl hc hstop hsl hr => exact htw
  | runRefreshed sl hc hstop hsl =>
    exact Tower.refreshAll_presetSound (tw := { tw with run := sl }) curves' true ⟨hconfig, hlength, hsl hs, hnext⟩ htw.corrections
  | runNear sl hc hstop hsl hm hold hnew =>
    exact Tower.refresh_presetSound (tw := { tw with run := sl }) curves' (Tower.keysNear_nodup _ _) true
      ⟨hconfig, hlength, hsl hs, hnext⟩ htw.corrections fun k key hk _ => htw key (List.mem_of_getElem? hk)
  | jobChange keep sheets hc hst hn =>
    exact (Tower.carries_finishJobChange _).presetSound (Tower.refreshAll_presetSound (tw := tw.changeJob keep sheets) curves' true
      (Tower.changeJob_shape hshape keep sheets) (Tower.changeJob_corrections htw.corrections keep sheets))
  | configured c hc hsound ha hg hm =>
    intro key hkey
    obtain ⟨hcorr, htarget, heff⟩ := htw key hkey
    refine ⟨hcorr, fun g hgt => ?_, heff⟩
    unfold Target.FitsConfig
    rw [hg, hm]
    exact htarget g hgt
  | configRefreshed c hc hsound ha hz =>
    rw [show tw.allKeys = Tower.allKeys { tw with config := c } from congrArg List.range hz.symm]
    exact Tower.refreshAll_presetSound curves' true (Tower.configured_shape hsound hz hshape) htw.corrections
  | reshaped c hc hsound ha hz =>
    rw [show List.range c.geometry.z = (Tower.reshape { tw with config := c } c.geometry.z).allKeys by
      rw [Tower.allKeys, Tower.z, Tower.reshape_config]]
    exact Tower.refreshAll_presetSound curves' true (Tower.reshape_shape (tw := { tw with config := c }) hsound)
      (Tower.reshape_corrections (tw := { tw with config := c }) htw.corrections _)
  | trim k v hc hv =>
    exact Tower.corrected_presetSound curves' hshape htw k fun key ⟨_, _, hlo, hhi⟩ => ⟨hv.1, hv.2, hlo, hhi⟩
  | acc k v hc hv =>
    exact Tower.corrected_presetSound curves' hshape htw k fun key ⟨hlo, hhi, _, _⟩ => ⟨hlo, hhi, hv.1, hv.2⟩
  | curve c hc =>
    exact Tower.refresh_presetSound curves' (Tower.keysOn_nodup _ _) false hshape htw.corrections fun k key hk _ =>
      htw key (List.mem_of_getElem? hk)
  | restarted =>
    rw [show tw.allKeys = tw.restarted.allKeys from congrArg List.range tw.restarted_z.symm]
    exact Tower.refreshAll_presetSound curves' true (Tower.restarted_shape hshape) (Tower.restarted_corrections htw.corrections)
  | powerOn => exact Tower.powerOn_presetSound

/-! ### Counters, sweeps and positions -/

/-- Counters, sweeps and positions lie in their ranges (R104, R68, R142, R123). -/
def Tower.NumbersSound (tw : Tower) : Prop := tw.counters.Sound ∧ tw.SweepsSound ∧ tw.PositionsSound

theorem Tower.Keeps.numbers {a b : Tower} (h : a.Keeps b) (ha : a.NumbersSound) : b.NumbersSound :=
  ⟨h.counters ha.1, h.sweeps ha.2.1, h.positions ha.2.2⟩

theorem KeyRec.fresh_position : ∀ q ∈ KeyRec.fresh.drive.position, q ≤ 65535 := fun _ h => nomatch h

theorem Tower.powerOn_numbers : Tower.powerOn.NumbersSound := by
  refine ⟨LoopCounters.zero_sound, ⟨(fun _ h => nomatch h), (fun _ h => nomatch h)⟩, fun key hkey => ?_⟩
  rw [List.eq_of_mem_replicate hkey]
  exact KeyRec.fresh_position

theorem Tower.reshape_numbers {tw : Tower} (h : tw.NumbersSound) (z : Nat) : (tw.reshape z).NumbersSound := by
  obtain ⟨hcounters, hsweeps, hpositions⟩ := h
  refine (Tower.carries_surveyAll _ _).keeps.numbers ⟨hcounters, hsweeps, fun key hkey => ?_⟩
  rcases List.mem_append.mp hkey with hold | hnew
  · exact hpositions key (List.mem_of_mem_take hold)
  · rw [List.eq_of_mem_replicate hnew]
    exact KeyRec.fresh_position

theorem Tower.restarted_numbers {tw : Tower} (h : tw.NumbersSound) : tw.restarted.NumbersSound := by
  obtain ⟨-, ⟨hsweep, -⟩, -⟩ := h
  refine (Tower.carries_surveyAll _ _).keeps.numbers ⟨LoopCounters.zero_sound, ⟨hsweep, (fun _ h => nomatch h)⟩, fun key hkey => ?_⟩
  obtain ⟨old, -, rfl⟩ := List.mem_map.mp hkey
  exact fun _ h => nomatch h

theorem Tower.changeJob_numbers {tw : Tower} (h : tw.NumbersSound) (keep : Bool) (sheets : Sheet) :
    (tw.changeJob keep sheets).NumbersSound := by
  obtain ⟨-, hsweeps, hpositions⟩ := h
  refine ⟨LoopCounters.zero_sound, hsweeps, fun key hkey => ?_⟩
  obtain ⟨old, hold, rfl⟩ := List.mem_map.mp hkey
  exact hpositions old hold

/-- Every event keeps counters, sweeps and positions in their ranges (R104, R68, R142, R123). -/
theorem Tower.Change.numbers {s : State} {curves' : Vector (List Point) 16} {tw tw' : Tower} (h : tw.Change s curves' tw')
    (htw : tw.NumbersSound) : tw'.NumbersSound := by
  have hrefresh : ∀ (ks : List Nat) (b : Bool) {u : Tower}, u.NumbersSound → (u.refresh curves' ks b).NumbersSound :=
    fun ks b u => (Tower.keeps_refresh curves' ks b u).numbers
  have hcorrected : ∀ (k : Nat) {f : KeyRec → KeyRec}, (∀ key, (f key).drive = key.drive) → (tw.updateKey k f).NumbersSound := by
    intro k f hf
    obtain ⟨hcounters, hsweeps, hpositions⟩ := htw
    exact ⟨hcounters, hsweeps, hpositions.updateKey k fun key hkey => hf key ▸ hpositions key hkey⟩
  cases h with
  | same hc => exact htw
  | event tw' hc he => exact he.carries.keeps.numbers htw
  | nextSlot sl hc hsl => exact htw
  | runSlot sl hc hstop hsl hr => exact htw
  | runRefreshed sl hc hstop hsl => exact hrefresh _ _ htw
  | runNear sl hc hstop hsl hm hold hnew => exact hrefresh _ _ htw
  | jobChange keep sheets hc hst hn =>
    exact (Tower.carries_finishJobChange _).keeps.numbers (hrefresh _ _ (Tower.changeJob_numbers htw keep sheets))
  | configured c hc hsound ha hg hm => exact htw
  | configRefreshed c hc hsound ha hz => exact hrefresh _ _ htw
  | reshaped c hc hsound ha hz => exact hrefresh _ _ (Tower.reshape_numbers (tw := { tw with config := c }) htw _)
  | trim k v hc hv => exact hrefresh _ _ (hcorrected k fun _ => rfl)
  | acc k v hc hv => exact hrefresh _ _ (hcorrected k fun _ => rfl)
  | curve c hc => exact hrefresh _ _ htw
  | restarted => exact hrefresh _ _ (Tower.restarted_numbers htw)
  | powerOn => exact Tower.powerOn_numbers

/-! ### The machine -/

/-- Every fault record of a key names one of 48 (R161). -/
def FaultList.OriginsSound (l : FaultList) : Prop := ∀ r ∈ l.records, ∀ t k, r.origin = .key t k → k < 48

theorem FaultList.log_origins {l : FaultList} (h : l.OriginsSound) (kind : FaultKind) {origin : Origin} (sheet : Sheet)
    (ho : ∀ t k, origin = .key t k → k < 48) : (l.log kind origin sheet).OriginsSound := by
  rcases l.log_cases kind origin sheet with ⟨-, e⟩ | ⟨-, -, e⟩ | ⟨-, -, e⟩ <;> rw [e]
  · intro r hr
    obtain ⟨old, hold, rfl⟩ := List.mem_map.mp hr
    have hsame : (if old.matches kind origin then old.merged sheet else old).origin = old.origin := by
      split <;> rfl
    rw [hsame]
    exact h old hold
  · intro r hr
    rcases List.mem_append.mp hr with hold | hnew
    · exact h r hold
    · rw [List.mem_singleton.mp hnew]
      exact ho
  · exact h

theorem State.Event.faultOrigins {s u : State} (h : s.Event u) (hs : s.GeometrySound) (hf : s.faults.OriginsSound) :
    u.faults.OriginsSound := by
  refine h.faults_keep (P := FaultList.OriginsSound) (fun _ hr => nomatch hr)
    (fun l n full hl r hr => hl r (List.mem_of_mem_drop hr)) (fun l kind origin sheet ho hl => ?_) hf
  refine FaultList.log_origins hl kind sheet fun t k e => ?_
  have hlt := ho t k e
  have hz := (hs.1 t).1.z_range
  rw [(hs.1 t).2.1] at hlt
  exact Nat.lt_of_lt_of_le hlt hz.2

theorem SameBut.access {t : TowerIx} {s u : State} (h : SameBut t s u) : u.access = s.access := by
  obtain ⟨-, -, -, haccess, -⟩ := h
  exact haccess

theorem State.refreshCurve_access (s : State) (c : CurveIx) : (s.refreshCurve c).access = s.access := by
  obtain ⟨-, -, -, -, haccess, -⟩ := s.refreshCurve_spec c
  exact haccess

theorem State.restart_access (s : State) : s.restart.access = s.access := by
  obtain ⟨-, -, -, -, haccess, -⟩ := s.restart_spec
  exact haccess

/-- Only ACCESS SET and POWER_ON change the trust level (R157, R158). -/
theorem State.Event.trust {s u : State} (h : s.Event u) (hs : s.access.trust ≤ 2) : u.access.trust ≤ 2 := by
  have hkept : u.access = s.access → u.access.trust ≤ 2 := fun e => e ▸ hs
  cases h with
  | pending q => exact hs
  | sheets n => exact hs
  | access a ha => exact ha
  | restartAccepted => exact hs
  | faultsTaken n full => exact hs
  | logged kind origin ho => exact hs
  | framer p f hf hp => exact hkept (State.setFramer_access ..)
  | reply p body => exact hkept (State.sendReply_access ..)
  | release p => exact hkept (State.release_access ..)
  | ctx p c hc => exact hkept (State.setCtx_access ..)
  | cursor p c hc => exact hkept (State.setCursor_access ..)
  | tower t tw he => exact hs
  | nextSlot t sl hsl => exact hs
  | runSlot t sl hs' hsl hr => exact hs
  | runSlotRefreshed t sl hs' hsl => exact hkept (State.refresh_access ..)
  | storeRun t sl hs' hsl hm hl => exact hkept (State.storeSlot_sameBut s t .run sl).access
  | jobChange t keep hs' hn => exact hkept (by simp [State.jobChange, State.refreshTower])
  | configure t c hc ha =>
    exact State.configure_keeps (P := fun v => v.access.trust ≤ 2)
      (fun v hv => (State.refresh_access v t _ _).symm ▸ hv) (fun _ => hs) fun _ => hs
  | trim t k v hv => exact hkept (s.putTrim_frame t k v).2.2.1.access
  | acc t k key v hk hv =>
    refine hkept ?_
    unfold State.putAcc
    split
    · rfl
    · exact State.refresh_access ..
  | commit p held w points hw hp hc =>
    exact hkept ((State.refreshCurve_access _ _).trans (State.setCursor_access ..))
  | clearCurve c =>
    exact hkept (State.refreshCurve_access ((s.setCurve c []).resetCursors c) c)
  | restart => exact hkept s.restart_access
  | powerOn => exact Nat.zero_le 2

/-- Geometry, targets and ranges, the targets and the numbers of each tower in the form the events keep. -/
def State.TargetsAndRanges (s : State) : Prop :=
  s.GeometrySound ∧ (∀ t, (s.tower t).PresetSound ∧ (s.tower t).NumbersSound) ∧ s.faults.OriginsSound ∧ s.access.trust ≤ 2

theorem State.Event.targetsAndRanges {s u : State} (h : s.Event u) (hs : s.TargetsAndRanges) : u.TargetsAndRanges := by
  obtain ⟨hgeo, htowers, horigins, htrust⟩ := hs
  exact ⟨h.geometrySound hgeo, fun t => ⟨(h.change t).presetSound hgeo (hgeo.1 t) (htowers t).1, (h.change t).numbers (htowers t).2⟩,
    h.faultOrigins hgeo horigins, h.trust htrust⟩

theorem State.targetsAndRanges_of {s : State} (hg : s.GeometrySound) (ht : s.TargetsSound) (hr : s.RangesSound) :
    s.TargetsAndRanges := by
  obtain ⟨htowers, horigins, htrust⟩ := hr
  refine ⟨hg, fun t => ?_, horigins, htrust⟩
  obtain ⟨hcounters, hsweep, hlast, hkeys⟩ := htowers t
  exact ⟨fun key hkey => ⟨(hkeys key hkey).1, (ht t).2 key hkey, (hkeys key hkey).2.2⟩, hcounters, ⟨hsweep, hlast⟩,
    fun key hkey => (hkeys key hkey).2.1⟩

theorem State.TargetsAndRanges.sound {s : State} (h : s.TargetsAndRanges) : s.TargetsSound ∧ s.RangesSound := by
  obtain ⟨hgeo, htowers, horigins, htrust⟩ := h
  refine ⟨fun t => ⟨(hgeo.1 t).1, fun key hkey => ((htowers t).1 key hkey).2.1⟩, fun t => ?_, horigins, htrust⟩
  obtain ⟨hpreset, hcounters, ⟨hsweep, hlast⟩, hpositions⟩ := htowers t
  exact ⟨hcounters, hsweep, hlast, fun key hkey => ⟨(hpreset key hkey).1, hpositions key hkey, (hpreset key hkey).2.2⟩⟩

/-- Settles O58, event by event: every target is written by a refresh, which limits it, and every number by an operation that
limits it. -/
theorem everyStepKeepsTargetsAndRanges : Obligations.EveryStepKeepsTargetsAndRanges :=
  fun _ _ hg ht hr h => (step_keeps (fun _ _ => State.Event.targetsAndRanges) h (State.targetsAndRanges_of hg ht hr)).sound

end Sys2Proof.Machine

/-! SUPPORT. Presets current: what the Preset Engine has written of a tower is what it would write now. -/

namespace Sys2Proof.Machine

/-! ### The written-out computation -/

theorem targetOf_eq (c : TowerConfig) (t : Int) : targetOf c t = limitedTarget c t := by
  unfold targetOf limitedTarget
  by_cases hlo : t < c.metering.minOpen
  · simp [hlo, motorSteps, roundHalfUp, Nat.mul_assoc]
  · by_cases hhi : (c.metering.maxOpen : Int) < t <;> simp [hlo, hhi, motorSteps, roundHalfUp, Nat.mul_assoc]

theorem openingFor_eq (m : Metering) (e o : Nat) (trim acc : Int) :
    openingFor m e o trim acc = correctedOpening m e o trim acc := by
  unfold openingFor correctedOpening scaledOpening roundHalfUp
  by_cases h : m.closeEmpty = true ∧ e = 0
  · simp [h]
  · rw [if_neg h, if_neg (by simpa using h), Nat.mul_assoc]

theorem usable_iff (points : List Point) : usable points = true ↔ 2 ≤ points.length := by simp [usable]

/-! ### Current keys and sweep -/

/-- Key k of the tower holds what a refresh would write of it now (R55, R56). -/
def KeyRec.Current (curves : Vector (List Point) 16) (tw : Tower) (k : Nat) (key : KeyRec) : Prop :=
  key.effective = (if tw.run.complete then some (tw.effectiveCoverage k) else none) ∧
    (tw.run.complete = false ∨ usable (curves.get (tw.curveOf k)) = true → key.target = (tw.presetKey curves k key).target)

def Tower.KeysCurrent (curves : Vector (List Point) 16) (tw : Tower) : Prop :=
  ∀ (k : Nat) (key : KeyRec), tw.keys[k]? = some key → key.Current curves tw k

/-- The sweep is the one a refresh would write now (R56, R68). -/
def Tower.SweepCurrent (tw : Tower) : Prop := tw.sweep = if tw.run.complete then some tw.presetSweep else none

/-- Every effective coverage is the one a refresh would write now (R59). -/
def Tower.EffectiveCurrent (tw : Tower) : Prop :=
  ∀ (k : Nat) (key : KeyRec), tw.keys[k]? = some key → key.effective = if tw.run.complete then some (tw.effectiveCoverage k) else none

theorem Tower.KeysCurrent.effective {curves : Vector (List Point) 16} {tw : Tower} (h : tw.KeysCurrent curves) :
    tw.EffectiveCurrent := fun k key hk => (h k key hk).1

theorem Tower.presetKey_target_complete {curves : Vector (List Point) 16} {tw : Tower} {k : Nat} (hc : tw.run.complete = true)
    (hu : usable (curves.get (tw.curveOf k)) = true) (key : KeyRec) : (tw.presetKey curves k key).target =
      some (targetOf tw.config (openingFor tw.config.metering (tw.effectiveCoverage k)
        (openingAt (curves.get (tw.curveOf k)) (tw.effectiveCoverage k)) key.trim key.acc)) := by
  rw [targetOf_eq, openingFor_eq, Tower.presetKey, if_pos hc]
  simp only [Tower.presetTarget, hu, if_true]

theorem Tower.presetsCurrent_iff (curves : Vector (List Point) 16) (tw : Tower) :
    tw.PresetsCurrent curves ↔ tw.KeysCurrent curves ∧ tw.SweepCurrent := by
  unfold Tower.PresetsCurrent Tower.KeysCurrent Tower.SweepCurrent KeyRec.Current
  cases hc : tw.run.complete with
  | true =>
    simp only [if_true, forall_const, Bool.true_eq_false, false_or, false_implies, and_true]
    refine and_congr_left' (forall_congr' fun k => forall_congr' fun key => imp_congr_right fun _ => ?_)
    refine and_congr_right' ?_
    rw [← usable_iff]
    exact imp_congr_right fun hu => by rw [Tower.presetKey_target_complete hc hu]
  | false =>
    have hpreset : ∀ k key, (tw.presetKey curves k key).target = none := fun k key => by simp [Tower.presetKey, hc]
    simp only [Bool.false_eq_true, if_false, false_implies, true_and, forall_const, true_or, hpreset]
    refine and_congr_left' ⟨fun h k key hk => (h key (List.mem_of_getElem? hk)).symm, fun h key hkey => ?_⟩
    obtain ⟨k, hlt, rfl⟩ := List.getElem_of_mem hkey
    exact (h k _ (List.getElem?_eq_getElem hlt)).symm

/-! ### What the computation reads -/

/-- The inputs of the Preset Engine but for the keys' corrections are as they were (R58 to R68). -/
structure Tower.SameInputs (a b : Tower) : Prop where
  geometry : b.config.geometry = a.config.geometry
  metering : b.config.metering = a.config.metering
  coverage : b.run.coverage = a.run.coverage
  mirrored : b.run.mirrored = a.run.mirrored

theorem Tower.Keeps.inputs {a b : Tower} (h : a.Keeps b) : a.SameInputs b :=
  ⟨by rw [h.config], by rw [h.config], by rw [h.run], by rw [h.run]⟩

namespace Tower.SameInputs

variable {a b : Tower} (h : a.SameInputs b)
include h

theorem z : b.z = a.z := by rw [Tower.z, h.geometry, Tower.z]

theorem complete : b.run.complete = a.run.complete := by simp only [Slot.complete, Slot.state, h.coverage]

theorem zoneOf (k : Nat) : b.zoneOf k = a.zoneOf k := by simp only [Tower.zoneOf, h.mirrored, h.geometry, h.z]

theorem coverageUnder (k : Nat) : b.coverageUnder k = a.coverageUnder k := by
  simp only [Tower.coverageUnder, Slot.zone, h.coverage, h.zoneOf]

theorem effectiveCoverage (k : Nat) : b.effectiveCoverage k = a.effectiveCoverage k := by
  simp only [Tower.effectiveCoverage, Tower.spread, h.metering, h.z, h.coverageUnder]

theorem curveOf (k : Nat) : b.curveOf k = a.curveOf k := by simp only [Tower.curveOf, h.metering]

theorem presetKey (curves : Vector (List Point) 16) (k : Nat) (key : KeyRec) :
    b.presetKey curves k key = a.presetKey curves k key := by
  have hheld : heldTarget b.config = heldTarget a.config := by
    funext g
    simp only [heldTarget, h.metering, h.geometry]
  simp only [Tower.presetKey, Tower.presetTarget, limitedTarget, hheld, h.complete, h.effectiveCoverage, h.curveOf, h.metering,
    h.geometry]

theorem current {curves : Vector (List Point) 16} {k : Nat} {key : KeyRec} (hk : key.Current curves a k) :
    key.Current curves b k := by
  unfold KeyRec.Current
  rw [h.presetKey, h.complete, h.effectiveCoverage, h.curveOf]
  exact hk

end Tower.SameInputs

/-- A key's preset part decides whether it is current. -/
theorem KeyRec.current_preset (curves : Vector (List Point) 16) (tw : Tower) (k : Nat) (key : KeyRec) :
    key.Current curves tw k ↔ key.preset.Current curves tw k := by
  have htarget : (tw.presetKey curves k key.preset).target = (tw.presetKey curves k key).target := by
    unfold Tower.presetKey
    split <;> rfl
  unfold KeyRec.Current
  rw [htarget]
  rfl

/-- A refreshed key is current. -/
theorem Tower.presetKey_current (curves : Vector (List Point) 16) (tw : Tower) (k : Nat) (key : KeyRec) :
    (tw.presetKey curves k key).Current curves tw k := by
  refine ⟨by unfold Tower.presetKey; split <;> rfl, fun huse => ?_⟩
  cases hc : tw.run.complete with
  | true =>
    have hu := huse.resolve_left (by simp [hc])
    rw [Tower.presetKey_target_complete hc hu, Tower.presetKey_target_complete hc hu, Tower.presetKey_trim, Tower.presetKey_acc]
  | false => simp [Tower.presetKey, hc]

/-! ### The sweep -/

/-- The sum of current effective coverages is that of the present coverage (R68). -/
theorem Tower.EffectiveCurrent.effectiveSum {tw : Tower} (h : tw.EffectiveCurrent) (hc : tw.run.complete = true) :
    tw.effectiveSum = ((List.range tw.keys.length).map tw.effectiveCoverage).sum := by
  unfold Tower.effectiveSum
  congr 1
  apply List.ext_getElem (by simp)
  intro k hk _
  rw [List.length_map] at hk
  have := h k _ (List.getElem?_eq_getElem hk)
  simp [this, hc]

/-- Towers of the same inputs and key count whose effective coverages are current have the same sweep (R68). -/
theorem Tower.SameInputs.presetSweep {a b : Tower} (h : a.SameInputs b) (hlength : b.keys.length = a.keys.length)
    (ha : a.EffectiveCurrent) (hb : b.EffectiveCurrent) (hc : a.run.complete = true) : b.presetSweep = a.presetSweep := by
  have hsum : b.effectiveSum = a.effectiveSum := by
    rw [ha.effectiveSum hc, hb.effectiveSum (h.complete.trans hc), hlength]
    simp only [funext h.effectiveCoverage]
  unfold Tower.presetSweep
  rw [hsum, h.z, h.metering]

theorem Tower.SameInputs.sweepCurrent {a b : Tower} (h : a.SameInputs b) (hlength : b.keys.length = a.keys.length)
    (ha : a.EffectiveCurrent) (hb : b.EffectiveCurrent) (hsweep : b.sweep = a.sweep) (hcur : a.SweepCurrent) : b.SweepCurrent := by
  unfold Tower.SweepCurrent at *
  rw [hsweep, hcur, h.complete]
  cases hc : a.run.complete with
  | true => rw [h.presetSweep hlength ha hb hc]
  | false => rfl

/-! ### What keeps presets current -/

theorem Tower.Carries.keysCurrent {curves : Vector (List Point) 16} {a b : Tower} (h : a.Carries b) (ha : a.KeysCurrent curves) :
    b.KeysCurrent curves := by
  intro k key hk
  have hmap : b.keys[k]?.map KeyRec.preset = a.keys[k]?.map KeyRec.preset := by
    rw [← List.getElem?_map, h.keys, List.getElem?_map]
  rw [hk] at hmap
  obtain ⟨key', hk', e⟩ := Option.map_eq_some_iff.mp hmap.symm
  rw [KeyRec.current_preset, ← e, ← KeyRec.current_preset]
  exact h.keeps.inputs.current (ha k key' hk')

theorem Tower.Carries.presetsCurrent {curves : Vector (List Point) 16} {a b : Tower} (h : a.Carries b)
    (ha : a.PresetsCurrent curves) : b.PresetsCurrent curves := by
  rw [Tower.presetsCurrent_iff] at *
  obtain ⟨hkeys, hsweep⟩ := ha
  have hkeys' := h.keysCurrent hkeys
  exact ⟨hkeys', h.keeps.inputs.sweepCurrent h.keeps.length hkeys.effective hkeys'.effective h.sweep hsweep⟩

/-- A refresh makes the keys of its set current; the others must be. -/
theorem Tower.refresh_keysCurrent {curves : Vector (List Point) 16} {ks : List Nat} (hnd : ks.Nodup) (b : Bool) {tw : Tower}
    (hrest : ∀ k key, tw.keys[k]? = some key → k ∉ ks → key.Current curves tw k) :
    (tw.refresh curves ks b).KeysCurrent curves := by
  intro k key' hk'
  obtain ⟨key, hk, e⟩ := Tower.refresh_key_some hnd hk'
  refine (Tower.keeps_refresh curves ks b tw).inputs.current ?_
  rw [KeyRec.current_preset, e, ← KeyRec.current_preset]
  split
  · exact tw.presetKey_current curves k key
  · next hnot => exact hrest k key hk hnot

/-- A refresh that covers the sweep makes it current (R57, R68). -/
theorem Tower.refresh_sweepCurrent (curves : Vector (List Point) 16) (ks : List Nat) (tw : Tower) :
    (tw.refresh curves ks true).SweepCurrent := by
  show (ks.foldl (Tower.refreshKey curves) tw).refreshSweep.SweepCurrent
  generalize ks.foldl (Tower.refreshKey curves) tw = u
  have hkept := Tower.keeps_refreshSweep u
  unfold Tower.SweepCurrent
  rw [Tower.refreshSweep_sweep]
  simp only [Tower.presetSweep, Tower.effectiveSum, Tower.refreshSweep_keys, hkept.run, hkept.config, Tower.z]

/-- A refresh of keys and the sweep (R69). -/
theorem Tower.refresh_presetsCurrent {curves : Vector (List Point) 16} {ks : List Nat} (hnd : ks.Nodup) {tw : Tower}
    (hrest : ∀ k key, tw.keys[k]? = some key → k ∉ ks → key.Current curves tw k) :
    (tw.refresh curves ks true).PresetsCurrent curves :=
  (Tower.presetsCurrent_iff ..).mpr ⟨Tower.refresh_keysCurrent hnd true hrest, Tower.refresh_sweepCurrent curves ks tw⟩

/-- A refresh of keys alone keeps the sweep, which depends on no correction and no curve (R68, R72, R73). -/
theorem Tower.refreshKeys_presetsCurrent {curves : Vector (List Point) 16} {ks : List Nat} (hnd : ks.Nodup) {tw : Tower}
    (heff : tw.EffectiveCurrent) (hsweep : tw.SweepCurrent)
    (hrest : ∀ k key, tw.keys[k]? = some key → k ∉ ks → key.Current curves tw k) :
    (tw.refresh curves ks false).PresetsCurrent curves := by
  have hkeys := Tower.refresh_keysCurrent hnd false hrest
  have hkeeps := Tower.keeps_refresh curves ks false tw
  refine (Tower.presetsCurrent_iff ..).mpr ⟨hkeys, hkeeps.inputs.sweepCurrent hkeeps.length heff hkeys.effective ?_ hsweep⟩
  obtain ⟨⟨-, -, -, hsame, -⟩, -⟩ := Tower.refreshKeys_spec curves hnd tw
  exact hsame

/-- A refresh of every key and the sweep (R70, R71, R74). -/
theorem Tower.refreshAll_presetsCurrent (curves : Vector (List Point) 16) {tw : Tower} (hlength : tw.keys.length = tw.z) :
    (tw.refresh curves tw.allKeys true).PresetsCurrent curves := by
  refine Tower.refresh_presetsCurrent List.nodup_range fun k key hk hnot => ?_
  exact absurd (List.mem_range.mpr (hlength ▸ (List.getElem?_eq_some_iff.mp hk).1)) hnot

end Sys2Proof.Machine

/-! SUPPORT. Every event of the machine keeps presets current and running towers on a COMPLETE RUN slot. -/

namespace Sys2Proof.Machine

/-! ### A change around a few zones (R69) -/

theorem sameRegion_comm (split j k : Nat) : sameRegion split j k = sameRegion split k j := by
  unfold sameRegion
  exact Bool.beq_comm

/-- The keys that feed key k lie at most two away, in its region (R59). -/
theorem Tower.mem_spread {tw : Tower} {k : Nat} {jw : Nat × Nat} (h : jw ∈ tw.spread k) :
    jw.1 < tw.z ∧ sameRegion tw.config.metering.split jw.1 k = true ∧ stepDistance k jw.1 ≤ 2 := by
  unfold Tower.spread at h
  simp only [List.mem_filter, Bool.and_eq_true, decide_eq_true_eq] at h
  obtain ⟨hmem, hlt, hregion⟩ := h
  refine ⟨hlt, hregion, ?_⟩
  simp only [List.mem_append, List.mem_cons, List.not_mem_nil, or_false, List.mem_ite_nil_right] at hmem
  unfold stepDistance
  rcases hmem with (⟨hk, rfl⟩ | ⟨hk, rfl⟩) | rfl | rfl | rfl <;> simp only <;> split <;> omega

/-- A key that is near no changed zone keeps its effective coverage (R59, R69). -/
theorem Tower.effectiveCoverage_of_not_near {tw : Tower} {sl : Slot} (hm : sl.mirrored = tw.run.mirrored)
    (hl : sl.coverage.length = tw.z) {k : Nat} (hk : k < tw.z)
    (hnear : k ∉ Tower.keysNear { tw with run := sl } (changedZones tw.run.coverage sl.coverage)) :
    Tower.effectiveCoverage { tw with run := sl } k = tw.effectiveCoverage k := by
  have hunder : ∀ jw ∈ tw.spread k, Tower.coverageUnder { tw with run := sl } jw.1 = tw.coverageUnder jw.1 := by
    intro jw hjw
    obtain ⟨hlt, hregion, hdist⟩ := Tower.mem_spread hjw
    have hzone : ∀ j, Tower.zoneOf { tw with run := sl } j = tw.zoneOf j := fun j => by
      simp only [Tower.zoneOf, hm, Tower.z]
    have hsame : tw.run.coverage[tw.zoneOf jw.1]? = sl.coverage[tw.zoneOf jw.1]? := by
      by_contra hne
      refine hnear (List.mem_filter.mpr ⟨List.mem_range.mpr hk, List.any_eq_true.mpr ⟨tw.zoneOf jw.1, ?_, ?_⟩⟩)
      · exact List.mem_filter.mpr ⟨List.mem_range.mpr (hl ▸ Tower.zoneOf_lt hlt), by simpa using hne⟩
      · rw [hzone, Tower.zoneOf_zoneOf hlt, Bool.and_eq_true, sameRegion_comm]
        exact ⟨hregion, decide_eq_true hdist⟩
    simp only [Tower.coverageUnder, Slot.zone, hzone, hsame]
  have hspread : Tower.spread { tw with run := sl } k = tw.spread k := rfl
  unfold Tower.effectiveCoverage
  rw [hspread]
  simp only
  congr 2
  exact List.map_congr_left fun jw hjw => by rw [hunder jw hjw]

/-- A key whose effective coverage stays is current after a change from COMPLETE to COMPLETE as it was before (R69). -/
theorem KeyRec.Current.of_not_near {curves : Vector (List Point) 16} {tw : Tower} {sl : Slot} {k : Nat} {key : KeyRec}
    (hold : tw.run.complete = true) (hnew : sl.complete = true)
    (he : Tower.effectiveCoverage { tw with run := sl } k = tw.effectiveCoverage k) (h : key.Current curves tw k) :
    key.Current curves { tw with run := sl } k := by
  obtain ⟨heff, htarget⟩ := h
  refine ⟨?_, fun huse => ?_⟩
  · simpa only [he, hold, hnew] using heff
  · have hu : usable (curves.get (tw.curveOf k)) = true := huse.resolve_left (by simp [hnew])
    rw [htarget (.inr hu), Tower.presetKey_target_complete hold hu,
      Tower.presetKey_target_complete (tw := { tw with run := sl }) hnew hu, he]
    rfl

/-! ### Towers -/

theorem Tower.presetsCurrent_of_inputs {curves : Vector (List Point) 16} {a b : Tower} (h : a.SameInputs b)
    (hkeys : b.keys = a.keys) (hsweep : b.sweep = a.sweep) (ha : a.PresetsCurrent curves) : b.PresetsCurrent curves := by
  rw [Tower.presetsCurrent_iff] at *
  obtain ⟨hcur, hs⟩ := ha
  have hcur' : b.KeysCurrent curves := fun k key hk => h.current (hcur k key (hkeys ▸ hk))
  exact ⟨hcur', h.sweepCurrent (by rw [hkeys]) hcur.effective hcur'.effective hsweep hs⟩

/-- Without a COMPLETE RUN slot before and after, nothing is written and nothing would be (R56). -/
theorem Tower.presetsCurrent_of_incomplete {curves : Vector (List Point) 16} {a b : Tower} (hold : a.run.complete = false)
    (hnew : b.run.complete = false) (hkeys : b.keys = a.keys) (hsweep : b.sweep = a.sweep) (ha : a.PresetsCurrent curves) :
    b.PresetsCurrent curves := by
  obtain ⟨-, habsent⟩ := ha
  refine ⟨fun h => absurd h (by simp [hnew]), fun _ => ?_⟩
  rw [hkeys, hsweep]
  exact habsent hold

/-- A changed correction and the refresh of its key (R73). -/
theorem Tower.corrected_presetsCurrent {curves : Vector (List Point) 16} {tw : Tower} (h : tw.PresetsCurrent curves) (k : Nat)
    {f : KeyRec → KeyRec} (hf : ∀ key, (f key).effective = key.effective) :
    (Tower.refresh curves [k] false (tw.updateKey k f)).PresetsCurrent curves := by
  obtain ⟨hkeys, hsweep⟩ := (Tower.presetsCurrent_iff ..).mp h
  have hinputs : tw.SameInputs (tw.updateKey k f) := ⟨rfl, rfl, rfl, rfl⟩
  have heff : (tw.updateKey k f).EffectiveCurrent := by
    intro j key hj
    simp only [Tower.updateKey, List.getElem?_modify] at hj
    obtain ⟨old, hold, rfl⟩ := Option.map_eq_some_iff.mp hj
    have heffective : (if k = j then f old else old).effective = old.effective := by
      split
      · exact hf old
      · rfl
    rw [heffective]
    exact hkeys.effective j old hold
  refine Tower.refreshKeys_presetsCurrent (List.nodup_singleton k) heff
    (hinputs.sweepCurrent (List.length_modify ..) hkeys.effective heff rfl hsweep) fun j key hj hne => ?_
  have hne : k ≠ j := fun e => hne (by simp [e])
  simp only [Tower.updateKey, List.getElem?_modify, hne, if_false] at hj
  exact hinputs.current (hkeys j key (by simpa using hj))

/-- A changed curve and the refresh of the keys that look it up (R72). -/
theorem Tower.curveChanged_presetsCurrent {curves curves' : Vector (List Point) 16} {tw : Tower} {c : CurveIx}
    (hc : ∀ d, d ≠ c → curves'.get d = curves.get d) (hlength : tw.keys.length = tw.z) (h : tw.PresetsCurrent curves) :
    (tw.refresh curves' (tw.keysOn c) false).PresetsCurrent curves' := by
  obtain ⟨hkeys, hsweep⟩ := (Tower.presetsCurrent_iff ..).mp h
  refine Tower.refreshKeys_presetsCurrent (Tower.keysOn_nodup tw c) hkeys.effective hsweep fun k key hk hnot => ?_
  have hlt : k < tw.z := hlength ▸ (List.getElem?_eq_some_iff.mp hk).1
  have hne : tw.curveOf k ≠ c := fun e => hnot (List.mem_filter.mpr ⟨List.mem_range.mpr hlt, by simp [e]⟩)
  obtain ⟨heff, htarget⟩ := hkeys k key hk
  refine ⟨heff, fun huse => ?_⟩
  rw [hc _ hne] at huse
  rw [htarget huse]
  simp only [Tower.presetKey, Tower.presetTarget, hc _ hne]

theorem Tower.powerOn_incomplete : Tower.powerOn.run.complete = false := Slot.emptied_complete _

theorem Tower.powerOn_presetsCurrent (curves : Vector (List Point) 16) : Tower.powerOn.PresetsCurrent curves := by
  refine ⟨fun h => absurd h (by simp [Tower.powerOn_incomplete]), fun _ => ⟨fun key hkey => ?_, rfl⟩⟩
  rw [List.eq_of_mem_replicate hkey]
  exact ⟨rfl, rfl⟩

/-- Every event leaves a tower's presets current: no input changes without the refresh of what depends on it (R55 to R74). -/
theorem Tower.Change.presetsCurrent {s : State} {curves' : Vector (List Point) 16} {tw tw' : Tower} (h : tw.Change s curves' tw')
    (hs : s.GeometrySound) (hshape : tw.ShapeSound) (htw : tw.PresetsCurrent s.curves) : tw'.PresetsCurrent curves' := by
  have ⟨hconfig, hlength, hrun, hnext⟩ := hshape
  cases h with
  | same hc => rwa [hc]
  | event tw' hc he => exact hc ▸ he.carries.presetsCurrent htw
  | nextSlot sl hc hsl => exact hc ▸ Tower.presetsCurrent_of_inputs ⟨rfl, rfl, rfl, rfl⟩ rfl rfl htw
  | runSlot sl hc hstop hsl hr =>
    subst hc
    rcases hr with ⟨hold, hnew⟩ | ⟨hcoverage, hmirrored⟩
    · exact Tower.presetsCurrent_of_incomplete hold hnew rfl rfl htw
    · exact Tower.presetsCurrent_of_inputs (a := tw) ⟨rfl, rfl, hcoverage, hmirrored⟩ rfl rfl htw
  | runRefreshed sl hc hstop hsl => exact Tower.refreshAll_presetsCurrent (tw := { tw with run := sl }) curves' hlength
  | runNear sl hc hstop hsl hm hold hnew =>
    subst hc
    refine Tower.refresh_presetsCurrent (Tower.keysNear_nodup _ _) fun k key hk hnot => ?_
    have hlt : k < tw.z := hlength ▸ (List.getElem?_eq_some_iff.mp hk).1
    exact KeyRec.Current.of_not_near hold hnew (Tower.effectiveCoverage_of_not_near hm (hsl hs).1 hlt hnot)
      (((Tower.presetsCurrent_iff ..).mp htw).1 k key hk)
  | jobChange keep sheets hc hst hn =>
    refine (Tower.carries_finishJobChange _).presetsCurrent
      (Tower.refreshAll_presetsCurrent (tw := tw.changeJob keep sheets) curves' ?_)
    exact (Tower.changeJob_shape hshape keep sheets).2.1
  | configured c hc hsound ha hg hm => exact hc ▸ Tower.presetsCurrent_of_inputs ⟨hg, hm, rfl, rfl⟩ rfl rfl htw
  | configRefreshed c hc hsound ha hz =>
    rw [show tw.allKeys = Tower.allKeys { tw with config := c } from congrArg List.range hz.symm]
    exact Tower.refreshAll_presetsCurrent curves' (Tower.configured_shape hsound hz hshape).2.1
  | reshaped c hc hsound ha hz =>
    rw [show List.range c.geometry.z = (Tower.reshape { tw with config := c } c.geometry.z).allKeys by
      rw [Tower.allKeys, Tower.z, Tower.reshape_config]]
    exact Tower.refreshAll_presetsCurrent curves' (Tower.reshape_shape (tw := { tw with config := c }) hsound).2.1
  | trim k v hc hv => exact hc ▸ Tower.corrected_presetsCurrent htw k fun _ => rfl
  | acc k v hc hv => exact hc ▸ Tower.corrected_presetsCurrent htw k fun _ => rfl
  | curve c hc => exact Tower.curveChanged_presetsCurrent hc hlength htw
  | restarted =>
    rw [show tw.allKeys = tw.restarted.allKeys from congrArg List.range tw.restarted_z.symm]
    exact Tower.refreshAll_presetsCurrent curves' (Tower.restarted_shape hshape).2.1
  | powerOn => exact Tower.powerOn_presetsCurrent curves'

/-! ### Running towers (R116) -/

/-- A PRESETTING or PRINTING tower has a COMPLETE RUN slot (R116). -/
def Tower.RunningSound (tw : Tower) : Prop := tw.running = true → tw.run.complete = true

theorem Tower.Keeps.runningSound {a b : Tower} (h : a.Keeps b) (ha : a.RunningSound) : b.RunningSound := by
  intro hb
  rw [h.run]
  exact (h.running hb).elim ha id

theorem Tower.runningSound_of_stopped {tw : Tower} (h : tw.running = false) : tw.RunningSound := fun hrun => by
  rw [h] at hrun
  cases hrun

/-- A record of another geometry is taken only in DARK (R13). -/
theorem Tower.dark_of_reshaped {tw : Tower} {c : TowerConfig} (ha : tw.allowsConfig c = true) (hz : c.geometry.z ≠ tw.z) :
    tw.state = .dark := by
  simp only [Tower.allowsConfig, Bool.and_eq_true, Bool.or_eq_true, beq_iff_eq] at ha
  exact ha.1.resolve_left fun hg => hz (congrArg Geometry.z hg)

theorem Tower.Change.runningSound {s : State} {curves' : Vector (List Point) 16} {tw tw' : Tower} (h : tw.Change s curves' tw')
    (htw : tw.RunningSound) : tw'.RunningSound := by
  have hrefresh : ∀ (ks : List Nat) (b : Bool) {u : Tower}, u.RunningSound → (u.refresh curves' ks b).RunningSound :=
    fun ks b u => (Tower.keeps_refresh curves' ks b u).runningSound
  cases h with
  | same hc => exact htw
  | event tw' hc he => exact he.carries.keeps.runningSound htw
  | nextSlot sl hc hsl => exact htw
  | runSlot sl hc hstop hsl hr => exact Tower.runningSound_of_stopped hstop
  | runRefreshed sl hc hstop hsl => exact hrefresh _ _ (Tower.runningSound_of_stopped hstop)
  | runNear sl hc hstop hsl hm hold hnew => exact hrefresh _ _ (Tower.runningSound_of_stopped hstop)
  | jobChange keep sheets hc hst hn =>
    exact (Tower.carries_finishJobChange _).keeps.runningSound (hrefresh _ _ fun _ => hn)
  | configured c hc hsound ha hg hm => exact htw
  | configRefreshed c hc hsound ha hz => exact hrefresh _ _ htw
  | reshaped c hc hsound ha hz =>
    have hdark : tw.state = .dark := Tower.dark_of_reshaped ha hz
    exact hrefresh _ _ ((Tower.carries_surveyAll _ _).keeps.runningSound
      (Tower.runningSound_of_stopped (Tower.running_eq_false (.inl hdark))))
  | trim k v hc hv => exact hrefresh _ _ htw
  | acc k v hc hv => exact hrefresh _ _ htw
  | curve c hc => exact hrefresh _ _ htw
  | restarted =>
    exact hrefresh _ _ ((Tower.carries_surveyAll _ _).keeps.runningSound (Tower.runningSound_of_stopped rfl))
  | powerOn => exact Tower.runningSound_of_stopped rfl

/-- Settles O59, event by event: every change of an input of the Preset Engine comes with the refresh of what depends on it. -/
theorem everyStepKeepsPresetsCurrent : Obligations.EveryStepKeepsPresetsCurrent := by
  intro s u hgeo hcurrent hrunning h
  have hevent : ∀ s u : State, s.Event u → s.GeometrySound ∧ s.PresetsCurrent ∧ s.RunningSound →
      u.GeometrySound ∧ u.PresetsCurrent ∧ u.RunningSound := fun s u he ⟨hg, hc, hr⟩ =>
    ⟨he.geometrySound hg, fun t => (he.change t).presetsCurrent hg (hg.1 t) (hc t), fun t => (he.change t).runningSound (hr t)⟩
  exact (step_keeps hevent h ⟨hgeo, hcurrent, hrunning⟩).2

end Sys2Proof.Machine

/-! SUPPORT. Queues, moving counts and motor slots, kept by every event of the machine. -/

namespace Sys2Proof.Machine

/-- The queue, the moving count and the motor slots of a tower are sound (R124, R125, R127). -/
structure Tower.DrivesSound (tw : Tower) : Prop where
  core : tw.CoreSound
  away : tw.Away
  dispatched : tw.DispatchSound

/-! ### The dispatch check fills the motor slots (R127) -/

/-- Nothing that the dispatch check reads of a tower changed, but for a queue that may be shorter. -/
theorem Tower.DispatchSound.congr {a b : Tower} (h : a.DispatchSound) (hrunning : b.running = true → a.running = true)
    (hqueue : b.queue ≠ [] → a.queue ≠ []) (hmoving : b.moving = a.moving) (hconfig : b.config = a.config) : b.DispatchSound :=
  fun hr hq => by
    rw [hmoving, hconfig]
    exact h (hrunning hr) (hqueue hq)

theorem Tower.dispatchSound_of_stopped {tw : Tower} (h : tw.running = false) : tw.DispatchSound := fun hr => by
  rw [h] at hr
  cases hr

/-- Where no key can be sent, no key waits or every motor slot is taken. -/
theorem Tower.dispatchSound_of_none {tw : Tower} (hcore : tw.CoreSound) (haway : tw.Away) (h : tw.dispatchHead = none) :
    tw.DispatchSound := by
  intro hrunning hqueue
  obtain ⟨-, hmem, -, -, hle⟩ := hcore
  obtain ⟨k, rest, hk⟩ := List.exists_cons_of_ne_nil hqueue
  by_contra hne
  have hlt : tw.moving < tw.config.drive.concurrency := Nat.lt_of_le_of_ne hle hne
  have hstate := (hmem k).mp (hk ▸ List.mem_cons_self)
  rw [Tower.getElem?_states] at hstate
  obtain ⟨key, hkey, hqueued⟩ := Option.map_eq_some_iff.mp hstate
  have hsound := haway key (List.mem_of_getElem? hkey)
  cases hdrive : key.drive <;> rw [hdrive] at hqueued <;> try cases hqueued
  next position =>
  simp only [KeyRec.QueuedSound, hdrive, KeyRec.steps] at hsound
  obtain ⟨steps, hsteps, -⟩ := hsound
  obtain ⟨target, htarget, -⟩ := Option.map_eq_some_iff.mp hsteps
  simp [Tower.dispatchHead, hk, hrunning, hlt, hkey, hdrive, htarget] at h

/-- The dispatch check leaves the motor slots full or the queue empty (R127). -/
theorem Tower.dispatchSound_dispatch {tw : Tower} (hcore : tw.CoreSound) (haway : tw.Away) : tw.dispatch.DispatchSound := by
  have hturns : ∀ n (u : Tower), u.CoreSound → u.Away → u.queue.length ≤ n → (Tower.dispatchTurns n u).DispatchSound := by
    intro n
    induction n with
    | zero => exact fun u _ _ hn _ hq => absurd (List.length_eq_zero_iff.mp (Nat.le_zero.mp hn)) hq
    | succ n ih =>
      intro u hc ha hn
      unfold Tower.dispatchTurns
      split
      · next u' e =>
        refine ih u' (hc.dispatchHead e) (ha.dispatchHead e) ?_
        obtain ⟨k, rest, _, _, _, hqueue, -, -, -, -, -, rfl⟩ := Tower.dispatchHead_eq_some e
        rw [hqueue, List.length_cons] at hn
        exact Nat.le_of_succ_le_succ hn
      · next e => exact Tower.dispatchSound_of_none hc ha e
  exact hturns _ tw hcore haway (Nat.le_refl _)

theorem Tower.drivesSound_dispatch {tw : Tower} (hcore : tw.CoreSound) (haway : tw.Away) : tw.dispatch.DrivesSound :=
  ⟨hcore.dispatch, haway.dispatch, Tower.dispatchSound_dispatch hcore haway⟩

theorem Tower.DrivesSound.drainCheck {tw : Tower} (h : tw.DrivesSound) : tw.drainCheck.DrivesSound := by
  refine ⟨h.core.drainCheck, h.away.drainCheck, h.dispatched.congr ?_ (by simp) (by simp) tw.driveOnly_drainCheck.1.1⟩
  rcases tw.drainCheck_state with e | ⟨hs, e⟩
  · simp [Tower.running, e]
  · simp [Tower.running, hs]

theorem Tower.drivesSound_afterMove {tw : Tower} (hcore : tw.CoreSound) (haway : tw.Away) : tw.afterMove.DrivesSound :=
  (Tower.drivesSound_dispatch hcore haway).drainCheck

/-! ### Operations of the Key Drive Unit and the Tower Sequencer -/

/-- What the Key Drive Unit reads of a key record: its drive part and its target. -/
def KeyRec.aim (key : KeyRec) : Drive × Option Target := (key.drive, key.target)

/-- The states, drives and targets of the keys, the queue, the moving count and the record are as they were, and a tower runs only
if it ran. -/
theorem Tower.DrivesSound.congr {a b : Tower} (h : a.DrivesSound) (hqueue : b.queue = a.queue) (hmoving : b.moving = a.moving)
    (hconfig : b.config = a.config) (hstate : b.state = a.state ∨ a.running = true ∧ b.state = .held)
    (hkeys : ∀ k : Nat, b.keys[k]?.map KeyRec.aim = a.keys[k]?.map KeyRec.aim) :
    b.DrivesSound := by
  have hstates : b.states = a.states := by
    apply List.ext_getElem?
    intro k
    have := congrArg (Option.map fun dg : Drive × Option Target => dg.1.state) (hkeys k)
    simpa [Tower.getElem?_states, Option.map_map, Function.comp_def, KeyRec.aim] using this
  refine ⟨h.core.congr hqueue hmoving hconfig hstates fun hd => ?_, fun key hkey => ?_,
    h.dispatched.congr (fun hr => ?_) (hqueue ▸ id) hmoving hconfig⟩
  · rcases hstate with e | ⟨-, e⟩ <;> rw [e] at hd
    · exact hd
    · cases hd
  · obtain ⟨k, hk⟩ := List.getElem?_of_mem hkey
    have hkk := hkeys k
    rw [hk] at hkk
    obtain ⟨old, hold, e⟩ := Option.map_eq_some_iff.mp hkk.symm
    have hsound := h.away old (List.mem_of_getElem? hold)
    rw [KeyRec.aim, KeyRec.aim, Prod.mk.injEq] at e
    unfold KeyRec.QueuedSound KeyRec.steps at *
    rwa [← e.1, ← e.2]
  · rcases hstate with e | ⟨hrun, -⟩
    · rwa [Tower.running, ← e, ← Tower.running]
    · exact hrun

/-- A key that is not QUEUED takes a drive part that is not QUEUED, and MOVING neither begins nor ends. -/
theorem Tower.DrivesSound.setDrive {tw : Tower} (h : tw.DrivesSound) {k : Nat} {a : DriveState} (ha : tw.states[k]? = some a)
    {d : Drive} (hq : a ≠ .queued) (hd : d.state ≠ .queued) (hm : a = .moving ↔ d.state = .moving) :
    (tw.setDrive k d).DrivesSound := by
  refine ⟨h.core.setDrive ha (iff_of_false hq hd) hm, ?_, h.dispatched.congr id id rfl rfl⟩
  refine Tower.away_of_except ((h.away.except k).updateKey _) fun key hk => KeyRec.queuedSound_of_state ?_
  rw [Tower.setDrive, Tower.updateKey_keys, getElem?_modify_self] at hk
  obtain ⟨old, -, rfl⟩ := Option.map_eq_some_iff.mp hk
  exact hd

theorem Tower.states_setDrive_same {tw : Tower} {k : Nat} {a : DriveState} (ha : tw.states[k]? = some a) (d : Drive) :
    (tw.setDrive k d).states[k]? = some d.state := by
  rw [Tower.states_setDrive, List.getElem?_set]
  simp [(List.getElem?_eq_some_iff.mp ha).1]

theorem Tower.DrivesSound.seekTarget {tw : Tower} (h : tw.DrivesSound) (k : Nat) : (tw.seekTarget k).DrivesSound := by
  rcases tw.seekTarget_cases k with ⟨hs, haway, e⟩ | ⟨-, e⟩ <;> rw [e]
  · exact Tower.drivesSound_dispatch (h.core.enqueue (Tower.states_of_isAway haway) hs).1
      (Tower.Away.enqueue (h.away.except k) haway)
  · exact h

theorem Tower.DrivesSound.dequeue {tw : Tower} (h : tw.DrivesSound) {k : Nat} (ha : tw.states[k]? = some .queued) :
    (tw.dequeue k).DrivesSound := by
  refine ⟨(h.core.dequeue ha).1, Tower.Away.dequeue (h.away.except k), h.dispatched.congr id (fun hq e => hq ?_) rfl rfl⟩
  rw [Tower.dequeue_queue, e]
  rfl

/-- A target change leaves the queue and the motor slots sound where it found all but its key so (R126). -/
theorem Tower.DrivesSound.targetChange {tw : Tower} {k : Nat} (hcore : tw.CoreSound) (haway : tw.AwayExcept k)
    (hdispatch : tw.DispatchSound) : (tw.targetChange k).DrivesSound := by
  obtain ⟨hcore', haway'⟩ := Tower.driveSound_targetChange hcore haway
  refine ⟨hcore', haway', ?_⟩
  rcases tw.targetChange_cases k with ⟨-, e⟩ | ⟨key, position, -, -, -, e⟩ | ⟨_, _, _, -, -, -, -, e⟩ | ⟨-, -, e⟩ <;> rw [e]
  · rcases tw.seekTarget_cases k with ⟨hs, hisAway, e⟩ | ⟨-, e⟩ <;> rw [e]
    · exact Tower.dispatchSound_dispatch (hcore.enqueue (Tower.states_of_isAway hisAway) hs).1 (Tower.Away.enqueue haway hisAway)
    · exact hdispatch
  · refine hdispatch.congr (fun hr => ?_) (fun hq e => hq ?_) (by simp) ((Tower.driveOnly_drainCheck _).1.1)
    · rcases (tw.dequeue k).drainCheck_state with e | ⟨hs, -⟩
      · rwa [Tower.running, e] at hr
      · have hs : tw.state = .presetting := hs
        simp [Tower.running, hs]
    · rw [Tower.drainCheck_queue, Tower.dequeue_queue, e]
      rfl
  · exact hdispatch
  · exact hdispatch

theorem Tower.states_presetKey (curves : Vector (List Point) 16) (tw : Tower) (k : Nat) :
    (tw.updateKey k (tw.presetKey curves k)).states = tw.states := by
  apply List.ext_getElem?
  intro j
  simp only [Tower.getElem?_states, Tower.updateKey_keys, List.getElem?_modify]
  cases tw.keys[j]? with
  | none => rfl
  | some key =>
    by_cases hj : k = j
    · simp [hj]
    · simp [hj]

theorem Tower.DrivesSound.refreshKey (curves : Vector (List Point) 16) {tw : Tower} (h : tw.DrivesSound) (k : Nat) :
    (tw.refreshKey curves k).DrivesSound := by
  obtain ⟨hcore, haway⟩ := Tower.driveSound_refreshKey curves h.core h.away k
  refine ⟨hcore, haway, ?_⟩
  rw [Tower.refreshKey_eq]
  split
  · exact h.dispatched
  · have hcore' : (tw.updateKey k (tw.presetKey curves k)).CoreSound :=
      h.core.congr rfl rfl rfl (Tower.states_presetKey curves tw k) id
    exact (Tower.DrivesSound.targetChange hcore' ((h.away.except k).updateKey _) h.dispatched).dispatched

theorem Tower.DrivesSound.sweepCheck {tw : Tower} (h : tw.DrivesSound) : tw.sweepCheck.DrivesSound :=
  h.congr (by simp) (by simp) tw.driveOnly_sweepCheck.1.1 (.inl (by simp)) (by simp)

theorem Tower.DrivesSound.refreshSweep {tw : Tower} (h : tw.DrivesSound) : tw.refreshSweep.DrivesSound :=
  h.congr (by simp) (by simp) (Tower.keeps_refreshSweep tw).config (.inl (by simp)) (by simp)

/-- A refresh keeps the queue and the motor slots sound (R126, R127). -/
theorem Tower.DrivesSound.refresh (curves : Vector (List Point) 16) (ks : List Nat) (b : Bool) {tw : Tower} (h : tw.DrivesSound) :
    (tw.refresh curves ks b).DrivesSound := by
  have hkeys : (ks.foldl (Tower.refreshKey curves) tw).DrivesSound := by
    induction ks generalizing tw with
    | nil => exact h
    | cons k ks ih => exact ih (h.refreshKey curves k)
  unfold Tower.refresh
  split
  · exact hkeys.refreshSweep
  · exact hkeys

/-- Keys that are FAULTED or UNKNOWN are surveyed (R138, R140). -/
theorem Tower.DrivesSound.surveyAll {tw : Tower} (h : tw.DrivesSound) (ks : List Nat)
    (hks : ∀ k ∈ ks, tw.states[k]? = some .faulted ∨ tw.states[k]? = some .unknown) : (tw.surveyAll ks).DrivesSound := by
  induction ks generalizing tw with
  | nil => exact h
  | cons k ks ih =>
    have hk := hks k List.mem_cons_self
    have hone : (tw.survey k).DrivesSound := by
      rcases hk with hk | hk
      · exact (h.setDrive hk (d := .unknown) (by simp) (by simp [Drive.state]) (by simp [Drive.state])).congr rfl rfl rfl (.inl rfl)
          fun _ => rfl
      · exact (h.setDrive hk (d := .unknown) (by simp) (by simp [Drive.state]) (by simp [Drive.state])).congr rfl rfl rfl (.inl rfl)
          fun _ => rfl
    refine ih hone fun j hj => ?_
    have hstates : (tw.survey k).states = tw.states.set k .unknown := Tower.states_setDrive tw k .unknown
    rw [hstates, List.getElem?_set]
    split
    · next e =>
      have hlt : k < tw.states.length := by
        rcases hk with hk | hk <;> exact (List.getElem?_eq_some_iff.mp hk).1
      exact .inr (by simp [hlt])
    · exact hks j (List.mem_cons_of_mem _ hj)

end Sys2Proof.Machine

/-! SUPPORT. Queues, moving counts and motor slots: the events of one tower and of the machine. -/

namespace Sys2Proof.Machine

theorem Tower.aim_updateKey {tw : Tower} (k : Nat) {f : KeyRec → KeyRec} (hf : ∀ key, (f key).aim = key.aim) (j : Nat) :
    (tw.updateKey k f).keys[j]?.map KeyRec.aim = tw.keys[j]?.map KeyRec.aim := by
  simp only [Tower.updateKey_keys, List.getElem?_modify]
  cases tw.keys[j]? with
  | none => rfl
  | some key =>
    by_cases hj : k = j
    · simp [hj, hf]
    · simp [hj]

theorem Tower.aim_map {keys : List KeyRec} {f : KeyRec → KeyRec} (hf : ∀ key, (f key).aim = key.aim) (j : Nat) :
    (keys.map f)[j]?.map KeyRec.aim = keys[j]?.map KeyRec.aim := by
  rw [List.getElem?_map, Option.map_map]
  congr 1
  exact funext hf

/-- A key record changed but for its drive part and target leaves the drives sound. -/
theorem Tower.DrivesSound.updateKey {tw : Tower} (h : tw.DrivesSound) (k : Nat) {f : KeyRec → KeyRec}
    (hf : ∀ key, (f key).aim = key.aim) : (tw.updateKey k f).DrivesSound :=
  h.congr rfl rfl rfl (.inl rfl) (Tower.aim_updateKey k hf)

theorem Tower.DrivesSound.standsAt {tw : Tower} (h : tw.DrivesSound) {k : Nat} (position : Nat)
    (hk : tw.states[k]? = some .unknown ∨ tw.states[k]? = some .idle) : (tw.standsAt k position).DrivesSound := by
  have hidle : (tw.setDrive k (.idle position)).DrivesSound := by
    rcases hk with hk | hk <;> exact h.setDrive hk (by simp) (by simp [Drive.state]) (by simp [Drive.state])
  exact hidle.seekTarget k

theorem Tower.DrivesSound.queuedAt {tw : Tower} (h : tw.DrivesSound) {k : Nat} (position : Nat)
    (hk : tw.states[k]? = some .queued) : (tw.queuedAt k position).DrivesSound := by
  have hcore : (tw.setDrive k (.queued position)).CoreSound := h.core.setDrive hk (by simp [Drive.state]) (by simp [Drive.state])
  have hexcept : (tw.setDrive k (.queued position)).AwayExcept k := (h.away.except k).updateKey _
  have hdispatch : (tw.setDrive k (.queued position)).DispatchSound := h.dispatched.congr id id rfl rfl
  unfold Tower.queuedAt
  split
  · next key hkey =>
    split
    · have hstate := Tower.states_setDrive_same hk (.queued position)
      refine Tower.DrivesSound.drainCheck ⟨(hcore.dequeue hstate).1, Tower.Away.dequeue hexcept,
        hdispatch.congr id (fun hq e => hq ?_) rfl rfl⟩
      rw [Tower.dequeue_queue, e]
      rfl
    · next hne =>
      refine ⟨hcore, Tower.away_of_except hexcept fun key' hkey' => ?_, hdispatch⟩
      rw [Tower.setDrive_keys, getElem?_modify_self, hkey] at hkey'
      obtain rfl := Option.some.inj hkey'
      have hold := h.away key (List.mem_of_getElem? hkey)
      have hqueued := Tower.states_of_key hkey
      rw [hk, Option.some.injEq] at hqueued
      unfold KeyRec.QueuedSound at hold ⊢
      cases hdrive : key.drive <;> rw [hdrive] at hqueued <;> try cases hqueued
      rw [hdrive] at hold
      obtain ⟨steps, hsteps, -⟩ := hold
      exact ⟨steps, hsteps, fun e => hne (by rw [← e]; exact hsteps)⟩
  · exact h

/-- What ends a move leaves the queue sound and its key neither QUEUED nor MOVING (R131, R132, R133). -/
theorem Tower.DrivesSound.endMove {tw : Tower} (h : tw.DrivesSound) {k : Nat} (hk : tw.states[k]? = some .moving) {d : Drive}
    (hq : d.state ≠ .queued) (hm : d.state ≠ .moving) : (tw.endMove k d).CoreSound ∧ (tw.endMove k d).Away := by
  refine ⟨h.core.endMove hk hq hm, ?_⟩
  have hexcept : (tw.endMove k d).AwayExcept k :=
    Tower.AwayExcept.updateKey (tw := { tw with moving := tw.moving - 1 }) (h.away.except k) _
  refine Tower.away_of_except hexcept fun key hkey => KeyRec.queuedSound_of_state ?_
  rw [Tower.endMove_keys, getElem?_modify_self] at hkey
  obtain ⟨old, -, rfl⟩ := Option.map_eq_some_iff.mp hkey
  exact hq

theorem Tower.states_settleKey (tw : Tower) (k : Nat) (sheet : Sheet) : (tw.settleKey k sheet).states = tw.states := by
  apply List.ext_getElem?
  intro j
  have := congrArg (Option.map fun dg : Drive × Option Target => dg.1.state)
    (Tower.aim_updateKey (tw := tw) k (f := fun key => { key with settleUntil := sheet }) (fun _ => rfl) j)
  simpa [Tower.getElem?_states, Option.map_map, Function.comp_def, KeyRec.aim, Tower.settleKey] using this

theorem Tower.settleKey_sound {tw : Tower} (hcore : tw.CoreSound) (haway : tw.Away) (k : Nat) (sheet : Sheet) :
    (tw.settleKey k sheet).CoreSound ∧ (tw.settleKey k sheet).Away := by
  refine ⟨hcore.congr rfl rfl rfl (tw.states_settleKey k sheet) id, fun key hkey => ?_⟩
  obtain ⟨j, hlt, rfl⟩ := List.getElem_of_mem hkey
  have hlt' : j < tw.keys.length := by simpa [Tower.settleKey] using hlt
  have hold := haway tw.keys[j] (List.getElem_mem hlt')
  simp only [Tower.settleKey, Tower.updateKey_keys, List.getElem_modify]
  split
  · exact hold
  · exact hold

theorem Tower.enqueueAway_sound {tw : Tower} (hcore : tw.CoreSound) (haway : tw.Away) (hs : tw.state ≠ .dark) (ks : List Nat) :
    (tw.enqueueAway ks).CoreSound ∧ (tw.enqueueAway ks).Away := by
  unfold Tower.enqueueAway
  induction ks generalizing tw with
  | nil => exact ⟨hcore, haway⟩
  | cons k ks ih =>
    rw [List.foldl_cons]
    split
    · next hk =>
      exact ih (hcore.enqueue (Tower.states_of_isAway hk) hs).1 (Tower.Away.enqueue (haway.except k) hk) hs
    · exact ih hcore haway hs

theorem Tower.DrivesSound.engage {tw : Tower} (h : tw.DrivesSound) (sheets : Sheet) :
    (tw.engage sheets).DrivesSound := by
  have hset : ({ tw with state := .presetting, counters := LoopCounters.zero }.settleAll (tw.windowEnd sheets)).CoreSound ∧
      ({ tw with state := .presetting, counters := LoopCounters.zero }.settleAll (tw.windowEnd sheets)).Away := by
    have hdark : (Tower.settleAll tw (tw.windowEnd sheets)).DrivesSound :=
      h.congr rfl rfl rfl (.inl rfl) (Tower.aim_map fun _ => rfl)
    exact ⟨hdark.core.congr rfl rfl rfl rfl (fun e => by cases e), hdark.away⟩
  obtain ⟨hcore, haway⟩ := hset
  have hlined := Tower.enqueueAway_sound hcore.sweepCheck haway.sweepCheck (by simp [Tower.settleAll])
  unfold Tower.engage
  exact (Tower.drivesSound_dispatch (hlined _).1 (hlined _).2).drainCheck

theorem Tower.DrivesSound.release {tw : Tower} (h : tw.DrivesSound) : tw.release.DrivesSound := by
  unfold Tower.release
  refine Tower.drivesSound_dispatch (Tower.CoreSound.sweepCheck (h.core.congr rfl rfl rfl rfl fun e => ?_))
    (Tower.Away.sweepCheck h.away)
  simp only at e
  split at e <;> cases e

theorem KeyRec.idled_state (key : KeyRec) :
    key.idled.drive.state ≠ .queued ∧ (key.idled.drive.state = .moving ↔ key.drive.state = .moving) := by
  cases hd : key.drive <;> simp [KeyRec.idled, hd, Drive.toIdle, Drive.state]

theorem Tower.DrivesSound.disengage {tw : Tower} (h : tw.DrivesSound) : tw.disengage.DrivesSound := by
  have hqueue : tw.QueueSound := ((Tower.driveSound_iff tw).mpr ⟨h.core, h.away⟩).1
  obtain ⟨-, -, -, hmoving, hle⟩ := h.core
  rw [hqueue.disengage_eq]
  refine ⟨⟨List.nodup_nil, fun k => ?_, fun _ => rfl, ?_, hle⟩, fun key hkey => ?_, Tower.dispatchSound_of_stopped rfl⟩
  · rw [Tower.getElem?_states, List.getElem?_map, Option.map_map]
    refine iff_of_false List.not_mem_nil fun hqueued => ?_
    obtain ⟨key, -, e⟩ := Option.map_eq_some_iff.mp hqueued
    exact key.idled_state.1 e
  · rw [hmoving]
    simp only [Tower.states, List.count, List.countP_map]
    exact List.countP_congr fun key _ => by simpa using key.idled_state.2.symm
  · obtain ⟨old, -, rfl⟩ := List.mem_map.mp hkey
    exact KeyRec.queuedSound_of_state old.idled_state.1

/-- A survey leaves the queue, the moving count and the tower state (R138). -/
theorem Tower.surveyAll_leaves (tw : Tower) (ks : List Nat) :
    (tw.surveyAll ks).queue = tw.queue ∧ (tw.surveyAll ks).moving = tw.moving ∧ (tw.surveyAll ks).state = tw.state := by
  induction ks generalizing tw with
  | nil => exact ⟨rfl, rfl, rfl⟩
  | cons k ks ih => exact ih (tw.survey k)

/-- What an event makes of one tower keeps its queue and motor slots sound (R124, R125, R127). -/
theorem Tower.Event.drivesSound {a b : Tower} (h : a.Event b) (ha : a.DrivesSound) : b.DrivesSound := by
  cases h with
  | framer f hf => exact ha.congr rfl rfl rfl (.inl rfl) fun _ => rfl
  | sent => exact ha.congr rfl rfl rfl (.inl rfl) fun _ => rfl
  | stands k position hk hp => exact ha.standsAt position hk
  | queuedAt k position hk hp => exact ha.queuedAt position hk
  | movesOn k position target timeout hk hp => exact ha.setDrive hk (by simp) (by simp [Drive.state]) (by simp [Drive.state])
  | faults k kind p hk hp =>
    rcases hk with hk | hk | hk <;> exact ha.setDrive hk (by simp) (by simp [Drive.state]) (by simp [Drive.state])
  | queuedFaults k kind p hk hp =>
    have hidle : (a.dequeue k).states[k]? = some .idle := by
      rw [(ha.core.dequeue hk).2, List.getElem?_set]
      simp [(List.getElem?_eq_some_iff.mp hk).1]
    exact ((ha.dequeue hk).setDrive hidle (by simp) (by simp [Drive.state]) (by simp [Drive.state])).drainCheck
  | movingFaults k kind p hk hp =>
    obtain ⟨hcore, haway⟩ := ha.endMove hk (d := .faulted kind p) (by simp [Drive.state]) (by simp [Drive.state])
    exact Tower.drivesSound_afterMove hcore haway
  | stopsShort k position sheet hk hp =>
    obtain ⟨hcore, haway⟩ := ha.endMove hk (d := .faulted .short (some position)) (by simp [Drive.state]) (by simp [Drive.state])
    obtain ⟨hcore, haway⟩ := Tower.settleKey_sound hcore haway k sheet
    exact Tower.drivesSound_afterMove hcore haway
  | arrives k position sheet hk hp =>
    obtain ⟨hcore, haway⟩ := ha.endMove hk (d := .idle position) (by simp [Drive.state]) (by simp [Drive.state])
    obtain ⟨hcore, haway⟩ := Tower.settleKey_sound hcore haway k sheet
    have hidle : ((a.endMove k (.idle position)).settleKey k sheet).states[k]? = some .idle := by
      rw [Tower.states_settleKey]
      exact Tower.states_setDrive_same (tw := { a with moving := a.moving - 1 }) hk _
    obtain ⟨hcore, haway⟩ := Tower.driveSound_requeue hcore (haway.except k) (by rw [hidle]; simp)
    exact Tower.drivesSound_afterMove hcore haway
  | surveys ks hks => exact ha.surveyAll ks fun k hk => .inl (hks k hk)
  | engage sheets hs hr => exact ha.engage sheets
  | disengage => exact ha.disengage
  | hold hs => exact ha.congr rfl rfl rfl (.inr ⟨hs, rfl⟩) fun _ => rfl
  | release hs hr => exact ha.release
  | counts n => exact ha.congr rfl rfl rfl (.inl rfl) fun _ => rfl

/-- What an event makes of one tower leaves it PRESETTING only with a key waiting or moving (R118). -/
theorem Tower.Event.presettingSound {a b : Tower} (h : a.Event b) (ha : a.PresettingSound) : b.PresettingSound := by
  cases h with
  | framer f hf => exact ha
  | sent => exact ha
  | stands k position hk hp => exact Tower.PresettingSound.seekTarget (tw := a.setDrive k _) ha k
  | queuedAt k position hk hp =>
    unfold Tower.queuedAt
    split
    · split
      · exact Tower.presettingSound_drainCheck _
      · exact ha
    · exact ha
  | movesOn k position target timeout hk hp => exact ha
  | faults k kind p hk hp => exact ha
  | queuedFaults k kind p hk hp => exact Tower.presettingSound_drainCheck _
  | movingFaults k kind p hk hp => exact Tower.presettingSound_drainCheck _
  | stopsShort k position sheet hk hp => exact Tower.presettingSound_drainCheck _
  | arrives k position sheet hk hp => exact Tower.presettingSound_drainCheck _
  | surveys ks hks =>
    obtain ⟨hqueue, hmoving, hstate⟩ := a.surveyAll_leaves ks
    exact ha.congr hstate hqueue hmoving
  | engage sheets hs hr => exact Tower.presettingSound_drainCheck _
  | disengage =>
    refine .of_state fun hp => ?_
    rw [Tower.disengage, Tower.foldl_dequeue_frame] at hp
    cases hp
  | hold hs => exact .of_state (by simp)
  | release hs hr =>
    unfold Tower.release
    refine Tower.PresettingSound.dispatch (Tower.PresettingSound.sweepCheck fun hp => ?_)
    simp only at hp
    split at hp
    · next hwork =>
      rw [Bool.or_eq_true, Bool.not_eq_true', List.isEmpty_eq_false_iff, decide_eq_true_eq] at hwork
      exact hwork
    · cases hp
  | counts n => exact ha

end Sys2Proof.Machine

/-! SUPPORT. Queues, moving counts and motor slots, kept by every event of the machine. -/

namespace Sys2Proof.Machine

@[simp] theorem Tower.surveyAll_state (tw : Tower) (ks : List Nat) : (tw.surveyAll ks).state = tw.state := (tw.surveyAll_leaves ks).2.2

theorem Tower.reshape_state (tw : Tower) (z : Nat) : (tw.reshape z).state = tw.state := Tower.surveyAll_state ..

theorem Tower.restarted_state (tw : Tower) : tw.restarted.state = .dark := Tower.surveyAll_state ..

theorem KeyRec.fresh_state : KeyRec.fresh.drive.state = .unknown := rfl

/-- A plate moved in leaves the drives sound: a DARK tower's queue is empty, and a HELD one sends nothing (R113). -/
theorem Tower.DrivesSound.changeJob {tw : Tower} (h : tw.DrivesSound) (hs : tw.state ≠ .presetting) (keep : Bool) (sheets : Sheet) :
    (tw.changeJob keep sheets).DrivesSound := by
  have haim : ∀ k : Nat, (tw.changeJob keep sheets).keys[k]?.map KeyRec.aim = tw.keys[k]?.map KeyRec.aim :=
    Tower.aim_map fun _ => rfl
  have hstopped : Tower.DrivesSound { tw with keys := (tw.changeJob keep sheets).keys } := h.congr rfl rfl rfl (.inl rfl) haim
  refine ⟨hstopped.core.congr rfl rfl rfl rfl fun e => ?_, hstopped.away, fun hr hq => ?_⟩
  · exfalso
    revert e
    simp only [Tower.changeJob]
    split <;> simp
  · cases hst : tw.state with
    | dark => exact absurd (h.core.2.2.1 hst) hq
    | presetting => exact absurd hst hs
    | printing => exact h.dispatched (by simp [Tower.running, hst]) hq
    | held =>
      have : (tw.changeJob keep sheets).running = false := by simp [Tower.changeJob, Tower.running, hst]
      rw [this] at hr
      cases hr

theorem Tower.DrivesSound.finishJobChange {tw : Tower} (h : tw.DrivesSound) : tw.finishJobChange.DrivesSound := by
  have hseek : ∀ (ks : List Nat) (u : Tower), u.DrivesSound → (ks.foldl Tower.seekTarget u).DrivesSound := by
    intro ks
    induction ks with
    | nil => exact fun u hu => hu
    | cons k ks ih => exact fun u hu => ih _ (hu.seekTarget k)
  unfold Tower.finishJobChange
  simp only
  split
  · exact (hseek _ tw h).sweepCheck.drainCheck
  · exact hseek _ tw h

theorem Tower.presettingSound_finishJobChange (tw : Tower) : tw.finishJobChange.PresettingSound := by
  unfold Tower.finishJobChange
  simp only
  split
  · exact Tower.presettingSound_drainCheck _
  · next hs => exact .of_state hs

/-- A record the tower's state takes leaves the drives sound: another C comes only with nothing moving, in DARK (R13). -/
theorem Tower.DrivesSound.configured {tw : Tower} {c : TowerConfig} (h : tw.DrivesSound) (ha : tw.allowsConfig c = true) :
    Tower.DrivesSound { tw with config := c } := by
  simp only [Tower.allowsConfig, Bool.and_eq_true, Bool.or_eq_true, beq_iff_eq] at ha
  obtain ⟨hnodup, hmem, hdark, hmoving, hle⟩ := h.core
  rcases ha.2 with hsame | ⟨hstopped, hnone⟩
  · refine ⟨⟨hnodup, hmem, hdark, hmoving, hsame ▸ hle⟩, h.away, fun hr hq => ?_⟩
    exact (h.dispatched hr hq).trans hsame.symm
  · have hzero : tw.moving = 0 := by rw [hmoving, ← Tower.countIn_eq, hnone]
    exact ⟨⟨hnodup, hmem, hdark, hmoving, by simp [hzero]⟩, h.away,
      Tower.dispatchSound_of_stopped (Tower.running_eq_false (.inl hstopped))⟩

/-- A reshaped tower is DARK: its queue is empty, and the moves of cut keys leave the moving count (R15). -/
theorem Tower.DrivesSound.reshape {tw : Tower} (h : tw.DrivesSound) (hdark : tw.state = .dark) (z : Nat) :
    (tw.reshape z).DrivesSound := by
  obtain ⟨-, hmem, hempty, hmoving, hle⟩ := h.core
  have hqueue : tw.queue = [] := hempty hdark
  have hnone : ∀ key ∈ tw.keys, key.drive.state ≠ .queued := fun key hkey hq => by
    obtain ⟨k, hk⟩ := List.getElem?_of_mem hkey
    have := (hmem k).mpr (by rw [Tower.states_of_key hk, hq])
    rw [hqueue] at this
    cases this
  have hkeys : ∀ key ∈ tw.keys.take z ++ List.replicate (z - tw.keys.length) KeyRec.fresh, key.drive.state ≠ .queued := by
    intro key hkey
    rcases List.mem_append.mp hkey with hold | hnew
    · exact hnone key (List.mem_of_mem_take hold)
    · rw [List.eq_of_mem_replicate hnew]
      simp [KeyRec.fresh_state]
  have hcount : tw.moving = (tw.keys.take z).countP (fun key => key.drive.state == .moving) +
      (tw.keys.drop z).countP fun key => key.drive.state == .moving := by
    rw [hmoving, ← List.countP_append, List.take_append_drop]
    simp only [Tower.states, List.count, List.countP_map]
    rfl
  unfold Tower.reshape
  refine Tower.DrivesSound.surveyAll ?_ _ fun k hk => .inr ?_
  refine ⟨⟨by simp [hqueue], fun k => ?_, fun _ => hqueue, ?_, ?_⟩, fun key hkey => KeyRec.queuedSound_of_state (hkeys key hkey),
    Tower.dispatchSound_of_stopped (Tower.running_eq_false (.inl hdark))⟩
  · simp only [hqueue]
    refine iff_of_false List.not_mem_nil fun hq => ?_
    rw [Tower.getElem?_states] at hq
    obtain ⟨key, hkey, e⟩ := Option.map_eq_some_iff.mp hq
    exact hkeys key (List.mem_of_getElem? hkey) e
  · simp only [Tower.states, List.count, List.countP_map, List.countP_append, List.countP_replicate]
    simp only [Function.comp_def, KeyRec.fresh_state]
    have : ((DriveState.unknown == DriveState.moving) = true) = False := by decide
    simp only [this, if_false]
    omega
  · exact Nat.le_trans (Nat.sub_le _ _) hle
  · obtain ⟨j, hj, rfl⟩ := List.mem_map.mp hk
    have hj := List.mem_range.mp hj
    rw [Tower.getElem?_states]
    simp only
    rw [List.getElem?_append_right (by rw [List.length_take]; omega), List.getElem?_replicate_of_lt]
    · rfl
    · rw [List.length_take]
      omega

/-- Towers whose keys are all UNKNOWN, with no queue and no moves, are sound (R138, R144). -/
theorem Tower.drivesSound_of_unknown {tw : Tower} (hkeys : ∀ key ∈ tw.keys, key.drive = .unknown) (hqueue : tw.queue = [])
    (hmoving : tw.moving = 0) (hs : tw.state = .dark) : tw.DrivesSound := by
  have hstates : ∀ d ∈ tw.states, d = .unknown := fun d hd => by
    obtain ⟨key, hkey, rfl⟩ := List.mem_map.mp hd
    rw [hkeys key hkey]
    rfl
  refine ⟨⟨hqueue ▸ List.nodup_nil, fun k => ?_, fun _ => hqueue, ?_, by omega⟩, fun key hkey => ?_,
    Tower.dispatchSound_of_stopped (Tower.running_eq_false (.inl hs))⟩
  · rw [hqueue]
    refine iff_of_false List.not_mem_nil fun hq => ?_
    cases hstates _ (List.mem_of_getElem? hq)
  · rw [hmoving, eq_comm, List.count_eq_zero]
    intro hm
    cases hstates _ hm
  · exact KeyRec.queuedSound_of_state (by rw [hkeys key hkey]; simp [Drive.state])

theorem Tower.restarted_drivesSound {tw : Tower} (hlength : tw.keys.length = tw.z) : tw.restarted.DrivesSound := by
  unfold Tower.restarted
  refine (Tower.drivesSound_of_unknown (fun key hkey => ?_) rfl rfl rfl).surveyAll _ fun k hk => .inr ?_
  · obtain ⟨old, -, rfl⟩ := List.mem_map.mp hkey
    rfl
  · have hk : k < tw.keys.length := hlength ▸ List.mem_range.mp hk
    rw [Tower.getElem?_states]
    simp [hk, Drive.state]

theorem Tower.powerOn_drivesSound : Tower.powerOn.DrivesSound :=
  Tower.drivesSound_of_unknown (fun key hkey => by rw [List.eq_of_mem_replicate hkey]; rfl) rfl rfl rfl

/-- Every event keeps a tower's queue, moving count and motor slots sound (R124, R125, R127). -/
theorem Tower.Change.drivesSound {s : State} {curves' : Vector (List Point) 16} {tw tw' : Tower} (h : tw.Change s curves' tw')
    (hshape : tw.ShapeSound) (htw : tw.DrivesSound) : tw'.DrivesSound := by
  have hslot : ∀ sl : Slot, Tower.DrivesSound { tw with run := sl } := fun sl => htw.congr rfl rfl rfl (.inl rfl) fun _ => rfl
  cases h with
  | same hc => exact htw
  | event tw' hc he => exact he.drivesSound htw
  | nextSlot sl hc hsl => exact htw.congr rfl rfl rfl (.inl rfl) fun _ => rfl
  | runSlot sl hc hstop hsl hr => exact hslot sl
  | runRefreshed sl hc hstop hsl => exact (hslot sl).refresh _ _ _
  | runNear sl hc hstop hsl hm hold hnew => exact (hslot sl).refresh _ _ _
  | jobChange keep sheets hc hst hn => exact ((htw.changeJob hst keep sheets).refresh _ _ _).finishJobChange
  | configured c hc hsound ha hg hm => exact htw.configured ha
  | configRefreshed c hc hsound ha hz => exact (htw.configured ha).refresh _ _ _
  | reshaped c hc hsound ha hz =>
    have hdark : tw.state = .dark := Tower.dark_of_reshaped ha hz
    exact ((htw.configured ha).reshape hdark _).refresh _ _ _
  | trim k v hc hv => exact (htw.updateKey k (f := fun key => { key with trim := v }) fun _ => rfl).refresh _ _ _
  | acc k v hc hv => exact (htw.updateKey k (f := fun key => { key with acc := v }) fun _ => rfl).refresh _ _ _
  | curve c hc => exact htw.refresh _ _ _
  | restarted => exact (Tower.restarted_drivesSound hshape.2.1).refresh _ _ _
  | powerOn => exact Tower.powerOn_drivesSound

/-- Every event leaves a tower PRESETTING only with a key waiting or moving (R118). -/
theorem Tower.Change.presettingSound {s : State} {curves' : Vector (List Point) 16} {tw tw' : Tower} (h : tw.Change s curves' tw')
    (htw : tw.PresettingSound) : tw'.PresettingSound := by
  cases h with
  | same hc => exact htw
  | event tw' hc he => exact he.presettingSound htw
  | nextSlot sl hc hsl => exact htw
  | runSlot sl hc hstop hsl hr => exact htw
  | runRefreshed sl hc hstop hsl => exact Tower.PresettingSound.refresh (tw := { tw with run := sl }) _ _ _ htw
  | runNear sl hc hstop hsl hm hold hnew => exact Tower.PresettingSound.refresh (tw := { tw with run := sl }) _ _ _ htw
  | jobChange keep sheets hc hst hn => exact Tower.presettingSound_finishJobChange _
  | configured c hc hsound ha hg hm => exact htw
  | configRefreshed c hc hsound ha hz => exact Tower.PresettingSound.refresh (tw := { tw with config := c }) _ _ _ htw
  | reshaped c hc hsound ha hz =>
    have hdark : tw.state = .dark := Tower.dark_of_reshaped ha hz
    refine Tower.PresettingSound.refresh _ _ _ (.of_state ?_)
    rw [Tower.reshape_state]
    simp [hdark]
  | trim k v hc hv => exact Tower.PresettingSound.refresh (tw := tw.updateKey k _) _ _ _ htw
  | acc k v hc hv => exact Tower.PresettingSound.refresh (tw := tw.updateKey k _) _ _ _ htw
  | curve c hc => exact htw.refresh _ _ _
  | restarted =>
    exact Tower.PresettingSound.refresh _ _ _ (.of_state (by simp [Tower.restarted_state]))
  | powerOn => exact .of_state (by decide)

/-- Settles O57, event by event: only the dispatch check frees the queue's head, and it runs wherever a slot or a key may be free. -/
theorem everyStepKeepsQueues : Obligations.EveryStepKeepsQueues := by
  intro s u hgeo hqueue hmoving hdispatch h
  have hdrives : ∀ t, (s.tower t).DrivesSound := fun t =>
    have hsound := (Tower.driveSound_iff _).mp ⟨hqueue t, hmoving t⟩
    ⟨hsound.1, hsound.2, hdispatch t⟩
  have hevent : ∀ s u : State, s.Event u → s.GeometrySound ∧ (∀ t, (s.tower t).DrivesSound) →
      u.GeometrySound ∧ ∀ t, (u.tower t).DrivesSound := fun s u he ⟨hg, hd⟩ =>
    ⟨he.geometrySound hg, fun t => (he.change t).drivesSound (hg.1 t) (hd t)⟩
  have hu := (step_keeps hevent h ⟨hgeo, hdrives⟩).2
  have hsound := fun t => (Tower.driveSound_iff _).mpr ⟨(hu t).core, (hu t).away⟩
  refine ⟨fun t => (hsound t).1, fun t => (hsound t).2, fun t => (hu t).dispatched, ?_⟩
  exact step_keeps (fun s u he hp t => (he.change t).presettingSound (hp t)) h

end Sys2Proof.Machine

/-! SUPPORT. The step of the machine, its codes, power-on, the sheet count, the sending of replies, and the access settings. -/

namespace Sys2Proof.Machine

/-! ### The step (R159) -/

/-- Settles O1: the step reads the head of the queue. -/
theorem stepTakesFrontCommand : Obligations.StepTakesFrontCommand := by
  refine ⟨fun c rest s => rfl, fun s h => ?_⟩
  unfold step
  rw [h]

/-! ### Codes (R173, R143, R178) -/

theorem ReportKind.ofCode_none {kind : Byte} (h : 3 ≤ kind.toNat) : ReportKind.ofCode kind = none := by
  unfold ReportKind.ofCode
  split
  · omega
  · omega
  · omega
  · rfl

/-- A report is a body of four bytes with the code of DONE or POS, or of five with the code of FAULT (R143). -/
theorem decodeReport_isSome {body : List Byte} (h : (decodeReport body).isSome = true) :
    (∃ code fields, body = code :: fields ∧ code ∈ [0x60#8, 0x62#8] ∧ fields.length = 3) ∨
      ∃ fields, body = 0x61#8 :: fields ∧ fields.length = 4 := by
  unfold decodeReport at h
  split at h
  · next code key b c =>
    refine .inl ⟨code, _, rfl, ?_, rfl⟩
    by_cases h0 : code = 0x60#8
    · simp [h0]
    · by_cases h2 : code = 0x62#8
      · simp [h2]
      · simp [h0, h2] at h
  · next code key kind b c =>
    by_cases h1 : code = 0x61#8
    · exact .inr ⟨_, by rw [h1], rfl⟩
    · simp [h1] at h
  · cases h

theorem decodeReport_none {body : List Byte}
    (h : ¬((∃ code fields, body = code :: fields ∧ code ∈ [0x60#8, 0x62#8] ∧ fields.length = 3) ∨
      ∃ fields, body = 0x61#8 :: fields ∧ fields.length = 4)) : decodeReport body = none :=
  Option.not_isSome_iff_eq_none.mp fun hs => h (decodeReport_isSome hs)

/-- The bytes of a report's layout are read as its fields (R143). -/
theorem decodeReport_layouts (k b c : Byte) :
    decodeReport [0x60#8, k, b, c] = some (.done k (b ++ c)) ∧ decodeReport [0x62#8, k, b, c] = some (.pos k (b ++ c)) ∧
    decodeReport [0x61#8, k, 0x00#8, b, c] = some (.fault k .stall (b ++ c)) ∧
    decodeReport [0x61#8, k, 0x01#8, b, c] = some (.fault k .overrange (b ++ c)) ∧
    decodeReport [0x61#8, k, 0x02#8, b, c] = some (.fault k .driver (b ++ c)) ∧
    ∀ kind : Byte, 3 ≤ kind.toNat → decodeReport [0x61#8, k, kind, b, c] = none :=
  ⟨rfl, rfl, rfl, rfl, rfl, fun kind h => by simp [decodeReport, ReportKind.ofCode_none h]⟩

/-- A drive message's body carries its key and its steps (R178). -/
theorem driveMessage_bodies (k b c : Byte) :
    (DriveMessage.move k.toNat (b.toNat * 256 + c.toNat)).body = [0x50#8, k, b, c] ∧
    (DriveMessage.ask k.toNat).body = [0x51#8, k] ∧ (DriveMessage.sweep k.toNat).body = [0x52#8, k] := by
  have hkey : byteOf k.toNat = k := BitVec.eq_of_toNat_eq (byteOf_toNat k.isLt)
  have hhigh : BitVec.ofNat 8 ((b.toNat * 256 + c.toNat) / 256) = b := by
    apply BitVec.eq_of_toNat_eq
    simp only [BitVec.toNat_ofNat]
    omega
  have hlow : BitVec.ofNat 8 (b.toNat * 256 + c.toNat) = c := by
    apply BitVec.eq_of_toNat_eq
    simp only [BitVec.toNat_ofNat]
    omega
  refine ⟨?_, ?_, ?_⟩
  · simp only [DriveMessage.body, bytes16, hkey, hhigh, hlow]
  · simp only [DriveMessage.body, hkey]
  · simp only [DriveMessage.body, hkey]

/-- Settles O2: every table by evaluation, every refusal of a code from the inverse reading. -/
theorem codesAreAsTabled : Obligations.CodesAreAsTabled := by
  have hmode : ∀ b : Byte, 4 ≤ b.toNat → readMode b = none := fun b h => by
    have h0 : b ≠ 0x00#8 := byte_ne_of_le_toNat h (by decide)
    have h1 : b ≠ 0x01#8 := byte_ne_of_le_toNat h (by decide)
    have h2 : b ≠ 0x02#8 := byte_ne_of_le_toNat h (by decide)
    have h3 : b ≠ 0x03#8 := byte_ne_of_le_toNat h (by decide)
    simp [readMode, h0, h1, h2, h3]
  have hdirection : ∀ b : Byte, 2 ≤ b.toNat → readDirection b = none := fun b h => by
    have h0 : b ≠ 0x00#8 := byte_ne_of_le_toNat h (by decide)
    have h1 : b ≠ 0x01#8 := byte_ne_of_le_toNat h (by decide)
    simp [readDirection, h0, h1]
  refine ⟨by decide, fun fn => by cases fn <;> rfl, fun b => ofCode_of_names_none, by decide, by decide, by decide, by decide,
    by decide, by decide, by decide, by decide, by decide, ⟨rfl, fun _ => rfl⟩, by decide, fun x => by cases x <;> rfl,
    fun b => readSlot_none, fun x => by cases x <;> rfl, hdirection, fun x => by cases x <;> rfl, hmode, decodeReport_layouts,
    fun code fields hcode => decodeReport_none ?_, fun code fields hcode hlength => decodeReport_none ?_,
    fun fields hlength => decodeReport_none ?_, rfl, driveMessage_bodies⟩
  · rintro (⟨code', fields', e, hmem, -⟩ | ⟨fields', e, -⟩) <;> cases e
    · exact hcode (by simp only [List.mem_cons, List.not_mem_nil, or_false] at hmem ⊢; tauto)
    · exact hcode (by simp)
  · rintro (⟨code', fields', e, -, hlen⟩ | ⟨fields', e, -⟩) <;> cases e
    · exact hlength hlen
    · simp at hcode
  · rintro (⟨code', fields', e, hmem, -⟩ | ⟨fields', e, hlen⟩) <;> cases e
    · simp at hmem
    · exact hlength hlen

end Sys2Proof.Machine

/-! SUPPORT. Power-on, the sheet count, the end of replies and messages, the Fault List, and the access settings. -/

namespace Sys2Proof.Machine

/-! ### A request taken on a free port (R149, R151, R175) -/

section Requests

variable {fn : MasterFn} {p : MasterPort} {args : List Byte} {s : State}

theorem exec_of_ok {s' : State} {r : Result} {data : List Byte} (hfree : s.busy p = false) (hearly : s.earlyRefusal p fn args = none)
    (htake : takeFunction fn p args s = .ok (s', r, data)) :
    exec (fn.command p args) s = .next (s'.sendReply p (replyByte fn.code :: r.code :: data)) := by
  rw [exec_command, State.takeRequest_ok hfree hearly htake]

theorem exec_of_error {r : Result} (hfree : s.busy p = false) (hearly : s.earlyRefusal p fn args = none)
    (htake : takeFunction fn p args s = .error r) :
    exec (fn.command p args) s = .next (s.sendReply p [replyByte fn.code, r.code]) := by
  rw [exec_command, State.takeRequest_error hfree hearly htake]

theorem exec_of_early {r : Result} (hfree : s.busy p = false) (hearly : s.earlyRefusal p fn args = some r) :
    exec (fn.command p args) s = .next (s.sendReply p [replyByte fn.code, r.code]) := by
  rw [exec_command, State.takeRequest_early hfree hearly]

end Requests

/-! ### Power-on (R138) -/

theorem State.reset_tower (t : TowerIx) : State.reset.tower t = Tower.powerOn := by simp [State.tower, State.reset]

theorem State.reset_curve (c : CurveIx) : State.reset.curve c = [] := by simp [State.curve, State.reset]

theorem State.reset_port (p : MasterPort) : State.reset.port p = MasterPortRec.powerOn := by cases p <;> rfl

theorem State.reset_geometrySound : State.reset.GeometrySound := by
  refine ⟨fun t => State.reset_tower t ▸ Tower.powerOn_shape, fun p => ?_⟩
  rw [State.reset_port, State.reset_tower]
  exact WriteContext.initial_sound (by decide)

theorem State.reset_curvesSound : State.reset.CurvesSound := by
  refine ⟨fun c => State.reset_curve c ▸ curveSound_nil, fun p => ?_⟩
  rw [State.reset_port]
  exact ⟨Nat.zero_le _, trivial⟩

theorem State.reset_targetsAndRanges : State.reset.TargetsAndRanges := by
  refine ⟨State.reset_geometrySound, fun t => ?_, fun _ hr => (nomatch hr), Nat.zero_le 2⟩
  rw [State.reset_tower]
  exact ⟨Tower.powerOn_presetSound, Tower.powerOn_numbers⟩

theorem State.reset_linksSound : State.reset.LinksSound := by
  refine ⟨fun p => ?_, fun t => ?_⟩
  · have hline : (State.reset.port p).LineSound := State.reset_port p ▸ MasterPortRec.powerOn_line
    exact hline
  · have hport : (State.reset.tower t).port.Sound := State.reset_tower t ▸ Tower.powerOn_port
    exact hport

/-- Settles O3: every tower is the power-on tower, which satisfies each invariant. -/
theorem invariantsHoldAtReset : Obligations.InvariantsHoldAtReset := by
  have hdrives : ∀ t, (State.reset.tower t).DrivesSound := fun t => State.reset_tower t ▸ Tower.powerOn_drivesSound
  have hqueues := fun t => (Tower.driveSound_iff (State.reset.tower t)).mpr ⟨(hdrives t).core, (hdrives t).away⟩
  obtain ⟨htargets, hranges⟩ := State.reset_targetsAndRanges.sound
  refine ⟨State.reset_geometrySound, State.reset_curvesSound, ⟨Nat.zero_le _, .nil, fun _ hr => (nomatch hr)⟩, hranges,
    fun t => (hqueues t).1, fun t => (hqueues t).2, fun t => (hdrives t).dispatched, fun t => ?_, htargets, fun t => ?_, fun t => ?_,
    State.reset_linksSound⟩
  · exact State.reset_tower t ▸ .of_state (by decide)
  · exact State.reset_tower t ▸ Tower.powerOn_presetsCurrent _
  · exact State.reset_tower t ▸ Tower.runningSound_of_stopped rfl

/-- Settles O4: POWER_ON leaves the power-on state with the commands still waiting. -/
theorem powerOnTakesPowerOnValues : Obligations.PowerOnTakesPowerOnValues := by
  intro s
  refine ⟨{ State.reset with pending := s.pending }, rfl, rfl, rfl, fun t => ?_, State.reset_curve, fun p => ?_, rfl, fun p => ?_,
    rfl, rfl⟩
  · have htower : ({ State.reset with pending := s.pending } : State).tower t = Tower.powerOn := State.reset_tower t
    simp only [htower]
    refine ⟨rfl, fun n => ?_, rfl, rfl, rfl, rfl, rfl, rfl, rfl, rfl, rfl, rfl⟩
    cases n <;> exact ⟨rfl, rfl, rfl⟩
  · cases p <;> exact ⟨rfl, rfl, rfl, rfl, rfl, rfl⟩
  · cases p <;> rfl

/-! ### The sheet count (R89, R169) -/

theorem bytes32_toNat (w : BitVec 32) :
    (((w.extractLsb' 24 8).toNat * 256 + (w.extractLsb' 16 8).toNat) * 256 + (w.extractLsb' 8 8).toNat) * 256 +
      (w.extractLsb' 0 8).toNat = w.toNat := by
  simp only [BitVec.extractLsb'_toNat, Nat.shiftRight_eq_div_pow]
  have := w.isLt
  omega

/-- A 32-bit number as sent is read back where it stands in a body (R172). -/
theorem field32_bytes32 (front rest : List Byte) (w : BitVec 32) : Field32 (front ++ (bytes32 w ++ rest)) front.length w := by
  refine ⟨_, _, _, _, ?_, ?_, ?_, ?_, bytes32_toNat w⟩
  · rw [List.getElem?_append_right (Nat.le_refl _), Nat.sub_self]
    rfl
  all_goals
    rw [List.getElem?_append_right (by omega), Nat.add_sub_cancel_left]
    rfl

theorem State.earlyRefusal_sheetGet (s : State) (p : MasterPort) : s.earlyRefusal p .sheetGet [] = none :=
  State.earlyRefusal_of_no_member (portRank_le_two p) rfl rfl

/-- Settles O5. -/
theorem sheetCountAdvancesAndIsReturned : Obligations.SheetCountAdvancesAndIsReturned := by
  refine ⟨fun s => ⟨_, rfl, rfl, BitVec.toNat_add ..⟩, fun p s hfree => ?_⟩
  exact ⟨_, exec_of_ok (fn := .sheetGet) hfree (s.earlyRefusal_sheetGet p) rfl, rfl, rfl, field32_bytes32 [0x82#8, 0x00#8] [] s.sheets⟩

/-! ### Replies and messages sent (R148, R129) -/

theorem exec_replySent (p : MasterPort) (s : State) : exec (.replySent p) s = execReplySent p s := rfl

theorem exec_drivePortMessageSent (t : TowerIx) (s : State) :
    exec (.drivePortMessageSent t) s = .next (s.setTower t { s.tower t with port := (s.tower t).port.sent }) := rfl

theorem DrivePort.sent_messages (d : DrivePort) : d.sent.sending.toList ++ d.sent.waiting = d.waiting := by
  unfold DrivePort.sent
  cases d.waiting with
  | nil => simp_all
  | cons m rest => rfl

/-- Messages leave a drive port in the order in which they are made (R129). -/
theorem DrivePort.send_messages (d : DrivePort) (m : DriveMessage) (h : d.LineSound) :
    (d.send m).sending.toList ++ (d.send m).waiting = d.sending.toList ++ d.waiting ++ [m] := by
  unfold DrivePort.send
  cases hs : d.sending with
  | none => simp [h hs]
  | some m' => simp

theorem DrivePort.send_sending (d : DrivePort) (m : DriveMessage) : (d.send m).sending ≠ none := by
  unfold DrivePort.send
  cases hs : d.sending with
  | none => simp
  | some m' => simp

/-- Settles O21. -/
theorem repliesAndMessagesAreSent : Obligations.RepliesAndMessagesAreSent := by
  refine ⟨fun p s hbusy hnot => ⟨Framer.hunting, rfl, rfl, ?_⟩, fun p s hfree => ?_, fun t s => ?_, fun d m hd =>
    ⟨d.send_messages m hd, d.send_framer m, d.send_sending m⟩⟩
  · rw [exec_replySent, execReplySent, if_pos hbusy, if_neg hnot]
    rfl
  · rw [exec_replySent, execReplySent, hfree]
    rfl
  · exact ⟨_, _, exec_drivePortMessageSent t s, rfl, DrivePort.sent_framer _, DrivePort.sent_messages _⟩

/-! ### The Fault List (R162) -/

theorem FaultList.any_matches_iff (l : FaultList) (kind : FaultKind) (origin : Origin) :
    l.records.any (FaultRecord.matches kind origin) = true ↔ ∃ r ∈ l.records, r.kind = kind ∧ r.origin = origin := by
  simp only [List.any_eq_true, FaultRecord.matches_iff]

/-- Settles O22: the three ways of logging exclude one another. -/
theorem faultIsMergedAppendedOrDropped : Obligations.FaultIsMergedAppendedOrDropped := by
  intro kind origin s
  simp only [← FaultList.any_matches_iff]
  refine ⟨rfl, ?_⟩
  show _ ∧ _ ∧ _
  have hlog : (s.logFault kind origin).faults = s.faults.log kind origin s.sheets := rfl
  rw [hlog]
  rcases s.faults.log_cases kind origin s.sheets with ⟨hany, e⟩ | ⟨hany, hlt, e⟩ | ⟨hany, hge, e⟩ <;> rw [e]
  · refine ⟨fun _ => ⟨rfl, List.length_map _, fun i r hr => ⟨if r.matches kind origin then r.merged s.sheets else r, ?_, ?_⟩⟩,
      fun hno => absurd hany hno, fun hno => absurd hany hno⟩
    · rw [List.getElem?_map, hr]
      rfl
    · rw [← FaultRecord.matches_iff]
      by_cases hm : r.matches kind origin = true
      · simp [hm, FaultRecord.merged]
      · simp [hm]
  · exact ⟨fun h => absurd (hany ▸ h) (by simp), fun _ _ => ⟨rfl, rfl⟩, fun _ hge => absurd hlt (by omega)⟩
  · exact ⟨fun h => absurd (hany ▸ h) (by simp), fun _ hlt => absurd hge (by omega), fun _ _ => ⟨rfl, rfl⟩⟩

/-! ### Access settings (R157, R158, R174) -/

theorem State.earlyRefusal_accessSet (s : State) {args : List Byte} (h : args.length = 7) :
    s.earlyRefusal .console .accessSet args = none :=
  State.earlyRefusal_of_no_member (by decide) (by simp [lengthFits, h]) rfl

theorem readDenyMap_of_lt {a b : Byte} (h : a.toNat < 32) : readDenyMap a b = some (BitVec.ofNat 13 (a.toNat * 256 + b.toNat)) := by
  have hb := b.isLt
  rw [readDenyMap, be16_eq, if_pos (by omega)]

theorem readDenyMap_none {a b : Byte} (h : 32 ≤ a.toNat) : readDenyMap a b = none := by
  rw [readDenyMap, be16_eq, if_neg (by omega)]

/-- A deny map is sent as it was taken (R174). -/
theorem denyMapBytes_ofNat {a b : Byte} (h : a.toNat < 32) : denyMapBytes (BitVec.ofNat 13 (a.toNat * 256 + b.toNat)) = [a, b] := by
  have hb := b.isLt
  have hmap : (BitVec.ofNat 13 (a.toNat * 256 + b.toNat)).toNat = a.toNat * 256 + b.toNat := by
    rw [BitVec.toNat_ofNat, Nat.mod_eq_of_lt (by omega)]
  have hhigh : BitVec.ofNat 8 ((a.toNat * 256 + b.toNat) / 256) = a := BitVec.eq_of_toNat_eq (by
    rw [BitVec.toNat_ofNat]
    omega)
  have hlow : BitVec.ofNat 8 (a.toNat * 256 + b.toNat) = b := BitVec.eq_of_toNat_eq (by
    rw [BitVec.toNat_ofNat]
    omega)
  rw [denyMapBytes, bytes16, hmap, hhigh, hlow]

/-- Settles O53. -/
theorem accessSetTakesMaps : Obligations.AccessSetTakesMaps := by
  intro tl c1 c0 p1 p0 q1 q0 s hfree
  have hearly := s.earlyRefusal_accessSet (args := [tl, c1, c0, p1, p0, q1, q0]) rfl
  refine ⟨fun htl hc hp hq => ?_, fun hbad => ?_⟩
  · refine exec_of_ok (fn := .accessSet) (r := .ok) hfree hearly ?_
    simp only [takeFunction, takeAccessSet, readDenyMap_of_lt hc, readDenyMap_of_lt hp, readDenyMap_of_lt hq, if_pos htl,
      denyMapBytes_ofNat hc, denyMapBytes_ofNat hp, denyMapBytes_ofNat hq]
    rfl
  · refine exec_of_error (fn := .accessSet) (r := .range) hfree hearly ?_
    simp only [takeFunction, takeAccessSet]
    split
    · next hc hp hq =>
      refine if_neg fun htl => ?_
      rcases hbad with h | h | h | h
      · omega
      · simp [readDenyMap_none h] at hc
      · simp [readDenyMap_none h] at hp
      · simp [readDenyMap_none h] at hq
    · rfl

end Sys2Proof.Machine

/-! SUPPORT. The check order of a request: the length check, the access check, and what is true of every answer (R148 to R156). -/

namespace Sys2Proof.Machine

/-! ### The length check (R153) -/

theorem listFits_iff (fixed size limit n : Nat) (hsize : 0 < size) :
    listFits fixed size limit n = true ↔ ∃ k, 1 ≤ k ∧ k ≤ limit ∧ n = fixed + size * k := by
  simp only [listFits, Bool.and_eq_true, decide_eq_true_eq, beq_iff_eq]
  constructor
  · rintro ⟨⟨hlo, hhi⟩, hmod⟩
    obtain ⟨k, hk⟩ := Nat.dvd_of_mod_eq_zero hmod
    have hn : n = fixed + size * k := by omega
    refine ⟨k, ?_, ?_, hn⟩
    · refine Nat.pos_of_ne_zero fun h0 => ?_
      rw [h0, Nat.mul_zero] at hn
      omega
    · exact Nat.le_of_mul_le_mul_left (by omega) hsize
  · rintro ⟨k, hlo, hhi, rfl⟩
    have hone : size * 1 ≤ size * k := Nat.mul_le_mul_left size hlo
    have hlimit : size * k ≤ size * limit := Nat.mul_le_mul_left size hhi
    exact ⟨by omega, by rw [Nat.add_sub_cancel_left, Nat.mul_mod_right]⟩

/-- The length check is the layout (R153, R176). -/
theorem lengthFits_iff (fn : MasterFn) (n : Nat) : lengthFits fn n = true ↔ LayoutLength fn n := by
  cases fn with
  | zonesWrite | curvePut =>
    unfold lengthFits LayoutLength
    rw [listFits_iff _ _ _ _ (by omega)]
    simp only [Nat.zero_add]
  | trimSet | trimNudge | measure =>
    unfold lengthFits LayoutLength
    rw [listFits_iff _ _ _ _ (by omega)]
  | identify | sheetGet | zonesRead | restart | towerStatus | configGet | faultsTake | curveGet | curveClear | engage | disengage
  | hold | release | zonesFill | zonesAbove | slotClear | curveSelect | jobChange | clearKeyFault | keyStatus | windowSet
  | slotTagSet | accessSet | writeModeSet | configSet => exact beq_iff_eq

theorem State.earlyRefusal_of_length {s : State} {p : MasterPort} {fn : MasterFn} {args : List Byte} (hrank : RankAllows p fn)
    (hlength : ¬LayoutLength fn args.length) : s.earlyRefusal p fn args = some .length := by
  rw [rankAllows_iff] at hrank
  rw [← lengthFits_iff, Bool.not_eq_true] at hlength
  simp [State.earlyRefusal, Nat.not_lt.mpr hrank, hlength]

/-- A request of an allowed rank whose body is its layout is refused early by the access check or not at all. -/
theorem State.earlyRefusal_of_layout {s : State} {p : MasterPort} {fn : MasterFn} {args : List Byte} (hrank : RankAllows p fn)
    (hlength : LayoutLength fn args.length) :
    s.earlyRefusal p fn args = if s.denies p (s.accessMember p fn args) then some .denied else none := by
  rw [rankAllows_iff] at hrank
  rw [← lengthFits_iff] at hlength
  simp [State.earlyRefusal, Nat.not_lt.mpr hrank, hlength]

/-! ### What the functions' own steps answer (R155, R156) -/

/-- What steps 6 to 8 make of a request is not a refusal for its length, and is marked clamped or not where it is taken. -/
def Taken.Answered : Taken → Prop
  | .error r => r ≠ .length
  | .ok (_, r, _) => r = .ok ∨ r = .okClamped

theorem clampResult_ok (b : Bool) : clampResult b = .ok ∨ clampResult b = .okClamped := by cases b <;> simp [clampResult]

theorem takeTowerOnly_answered {rule : TowerIx → Taken} (h : ∀ t, (rule t).Answered) {args : List Byte} (hlength : args.length = 1) :
    (takeTowerOnly args rule).Answered := by
  obtain ⟨b, rfl⟩ := List.length_eq_one_iff.mp hlength
  simp only [takeTowerOnly]
  split
  · exact h _
  · simp [Taken.Answered]

theorem State.takeTrims_answered (s : State) (b : Byte) (entries : List (Nat × Int)) (wanted : Int → Int → Int) :
    (s.takeTrims b entries wanted).Answered := by
  unfold State.takeTrims
  split
  · split
    · exact clampResult_ok _
    · simp [Taken.Answered]
  · simp [Taken.Answered]

/-- The first bytes of a body long enough to have them. -/
theorem exists_cons_of_length {n : Nat} {args : List Byte} (h : n + 1 ≤ args.length) :
    ∃ b rest, args = b :: rest ∧ n ≤ rest.length := by
  cases args with
  | nil => simp at h
  | cons b rest => exact ⟨b, rest, rfl, by simpa using h⟩

theorem takeMeasure_answered (p : MasterPort) {args : List Byte} (s : State) (hlength : 5 ≤ args.length) :
    (takeMeasure p args s).Answered := by
  obtain ⟨b, args4, rfl, h4⟩ := exists_cons_of_length hlength
  obtain ⟨s3, args3, rfl, h3⟩ := exists_cons_of_length h4
  obtain ⟨s2, args2, rfl, h2⟩ := exists_cons_of_length h3
  obtain ⟨s1, args1, rfl, h1⟩ := exists_cons_of_length h2
  obtain ⟨s0, rest, rfl, -⟩ := exists_cons_of_length h1
  unfold takeMeasure
  simp only
  split
  · split
    · exact clampResult_ok _
    · simp [Taken.Answered]
  · simp [Taken.Answered]

theorem takeConfigSet_answered (p : MasterPort) {args : List Byte} (s : State) (hlength : 1 ≤ args.length) :
    (takeConfigSet p args s).Answered := by
  obtain ⟨b, record, rfl, -⟩ := exists_cons_of_length hlength
  unfold takeConfigSet
  simp only
  split
  · split
    · split
      · exact clampResult_ok _
      · simp [Taken.Answered]
    · simp [Taken.Answered]
  · simp [Taken.Answered]

theorem exists_of_length_four {args : List Byte} (h : args.length = 4) : ∃ a b c d, args = [a, b, c, d] := by
  match args, h with
  | [a, b, c, d], _ => exact ⟨a, b, c, d, rfl⟩

theorem exists_of_length_seven {args : List Byte} (h : args.length = 7) :
    ∃ a b c d e f g, args = [a, b, c, d, e, f, g] := by
  match args, h with
  | [a, b, c, d, e, f, g], _ => exact ⟨a, b, c, d, e, f, g, rfl⟩

theorem exists_of_length_eight {args : List Byte} (h : args.length = 8) :
    ∃ a b c d e f g i, args = [a, b, c, d, e, f, g, i] := by
  match args, h with
  | [a, b, c, d, e, f, g, i], _ => exact ⟨a, b, c, d, e, f, g, i, rfl⟩

theorem State.putWords_result_ne_length (p : MasterPort) (words : List Nat) (n : Nat) (s : State) :
    (State.putWords p words n s).2.1 ≠ .length := by
  induction words generalizing n s with
  | nil => simp [State.putWords]
  | cons w rest ih =>
    rcases s.putWords_cons p w rest n with ⟨-, e⟩ | ⟨-, -, e⟩ | ⟨_, -, -, -, e⟩ | ⟨_, _, -, -, -, e⟩ <;> rw [e]
    · simp
    · exact ih _ _
    · simp
    · exact ih _ _

theorem Result.code_ne_length {r : Result} (h : r ≠ .length) : r.code ≠ 0x05#8 := by
  cases r with
  | length => exact absurd rfl h
  | ok | okClamped | frame | unknown | rank | denied | range | state | busy | notReady | incomplete | order => decide

/-- A body that is its function's layout is answered by its steps, CURVE PUT's aside (R153, R155). -/
theorem takeFunction_answered {fn : MasterFn} (hfn : fn ≠ .curvePut) {args : List Byte} (h : LayoutLength fn args.length)
    (p : MasterPort) (s : State) : (takeFunction fn p args s).Answered := by
  cases fn with
  | curvePut => exact absurd rfl hfn
  | identify | sheetGet | zonesRead | restart => exact .inl rfl
  | engage =>
    refine takeTowerOnly_answered (fun t => ?_) h
    simp only
    split_ifs <;> simp [Taken.Answered]
  | disengage => exact takeTowerOnly_answered (fun t => by simp [Taken.Answered]) h
  | hold =>
    refine takeTowerOnly_answered (fun t => ?_) h
    split <;> simp [Taken.Answered]
  | release =>
    refine takeTowerOnly_answered (fun t => ?_) h
    simp only
    split
    · simp [Taken.Answered]
    · simp [Taken.Answered]
    · simp [Taken.Answered]
    · split <;> simp [Taken.Answered]
  | zonesWrite =>
    simp only [takeFunction, takeZonesWrite]
    split
    · exact clampResult_ok _
    · simp [Taken.Answered]
  | zonesFill =>
    obtain ⟨a, b, rfl⟩ := List.length_eq_two.mp h
    simp only [takeFunction, takeZonesFill]
    split
    · exact clampResult_ok _
    · simp [Taken.Answered]
  | measure =>
    obtain ⟨k, -, -, hk⟩ := h
    exact takeMeasure_answered p s (by omega)
  | configSet => exact takeConfigSet_answered p s (by rw [h]; omega)
  | trimSet | trimNudge =>
    obtain ⟨k, -, -, hk⟩ := h
    obtain ⟨b, entries, rfl, -⟩ := exists_cons_of_length (n := 0) (args := args) (by omega)
    exact s.takeTrims_answered ..
  | towerStatus | configGet | faultsTake | curveGet | curveClear =>
    obtain ⟨b, rfl⟩ := List.length_eq_one_iff.mp h
    simp only [takeFunction, takeTowerStatus, takeConfigGet, takeFaultsTake, takeCurveGet, takeCurveClear]
    split <;> simp [Taken.Answered]
  | zonesAbove | slotClear | curveSelect | jobChange | clearKeyFault =>
    obtain ⟨a, b, rfl⟩ := List.length_eq_two.mp h
    simp only [takeFunction, takeZonesAbove, takeSlotClear, takeCurveSelect, takeJobChange, takeClearKeyFault]
    repeat' split
    all_goals simp [Taken.Answered]
  | keyStatus =>
    obtain ⟨b, first, count, rfl⟩ := List.length_eq_three.mp h
    simp only [takeFunction, takeKeyStatus]
    repeat' split
    all_goals simp [Taken.Answered]
  | windowSet =>
    obtain ⟨b, sl, first, last, rfl⟩ := exists_of_length_four h
    simp only [takeFunction, takeWindowSet]
    repeat' split
    all_goals simp [Taken.Answered]
  | slotTagSet | accessSet =>
    obtain ⟨b1, b2, b3, b4, b5, b6, b7, rfl⟩ := exists_of_length_seven h
    simp only [takeFunction, takeSlotTagSet, takeAccessSet]
    repeat' split
    all_goals simp [Taken.Answered]
  | writeModeSet =>
    obtain ⟨b1, b2, b3, b4, b5, b6, b7, b8, rfl⟩ := exists_of_length_eight h
    simp only [takeFunction, takeWriteModeSet]
    repeat' split
    all_goals simp [Taken.Answered]

/-- Settles O12: the length check comes before the access check and the functions' own steps, none of which answers LENGTH to a body
that is the function's layout. -/
theorem lengthCheck : Obligations.LengthCheck := by
  refine ⟨fun fn p args s hfree hrank hlength => exec_of_early hfree (State.earlyRefusal_of_length hrank hlength),
    fun fn p args s hfree hrank hlength => ?_⟩
  have hresult : takenResult (takeFunction fn p args s) ≠ .length := by
    by_cases hfn : fn = .curvePut
    · subst hfn
      exact State.putWords_result_ne_length p (readWords args) 0 s
    · have hanswered := takeFunction_answered hfn hlength p s
      cases htake : takeFunction fn p args s with
      | error r => rwa [htake] at hanswered
      | ok out =>
        rw [htake] at hanswered
        rcases hanswered with h | h <;> simp [takenResult, h]
  obtain ⟨data, hreply⟩ := State.takeRequest_reply hfree fn args (takeFunction fn)
  refine ⟨_, _, _, data, exec_command fn p args s, hreply, Result.code_ne_length ?_⟩
  rw [State.earlyRefusal_of_layout hrank hlength]
  split
  · simp
  · exact hresult

/-! ### The access check (R154) -/

theorem State.permits_or_denies (s : State) (p : MasterPort) (m : Nat) : s.Permits p m ∨ s.denies p (some m) = true := by
  by_cases hrank : portRank p ≤ s.access.trust
  · exact .inl (.inl hrank)
  · cases hmap : (s.access.denyMap p).getLsbD m with
    | false => exact .inl (.inr hmap)
    | true => exact .inr (by simp [State.denies, hmap, Nat.lt_of_not_le hrank])

/-- A store into a member that the port may not change is refused with DENIED. -/
theorem exec_of_denied {fn : MasterFn} {p : MasterPort} {args : List Byte} {s : State} {m : Nat} (hfree : s.busy p = false)
    (hrank : RankAllows p fn) (hlength : LayoutLength fn args.length) (hmember : s.accessMember p fn args = some m)
    (hpermits : ¬s.Permits p m) : exec (fn.command p args) s = .next (s.sendReply p [fn.code + 0x80#8, 0x06#8]) := by
  refine exec_of_early (r := .denied) hfree ?_
  rw [State.earlyRefusal_of_layout hrank hlength, hmember, (s.permits_or_denies p m).resolve_left hpermits, if_pos rfl]

/-- Settles O13, one list of functions for each kind of member. -/
theorem accessCheckDenies : Obligations.AccessCheckDenies := by
  refine ⟨fun fn p t b args s hfree hfn hrank hlength hb hpermits => exec_of_denied hfree hrank hlength ?_ hpermits,
    fun fn p args s hfree hfn hrank hlength hpermits => exec_of_denied hfree hrank hlength ?_ hpermits,
    fun fn p args s hfree hfn hrank hlength hpermits => exec_of_denied hfree hrank hlength ?_ hpermits,
    fun s m => .inl (Nat.zero_le _)⟩
  · have hmember : towerMember (b :: args) = some t.val := by simp [towerMember, readTower_of_toNat hb]
    simp only [List.mem_cons, List.not_mem_nil, or_false] at hfn
    rcases hfn with rfl | rfl | rfl <;> exact hmember
  · simp only [List.mem_cons, List.not_mem_nil, or_false] at hfn
    rcases hfn with rfl | rfl <;> rfl
  · simp only [List.mem_cons, List.not_mem_nil, or_false] at hfn
    rcases hfn with rfl | rfl <;> rfl

/-! ### What every answer leaves (R149, R151, R175) -/

theorem Result.code_toNat_le (r : Result) : r.code.toNat ≤ 12 := by cases r <;> decide

theorem State.layout_of_earlyRefusal {s : State} {p : MasterPort} {fn : MasterFn} {args : List Byte}
    (h : s.earlyRefusal p fn args = none) : LayoutLength fn args.length := by
  rw [← lengthFits_iff]
  by_contra hlength
  rw [Bool.not_eq_true] at hlength
  unfold State.earlyRefusal at h
  split at h
  · cases h
  · simp [hlength] at h

/-- A request taken with another result than OK or OK_CLAMPED is a CURVE PUT, whose reply carries a cursor block (R50). -/
theorem data_of_taken {fn : MasterFn} {p : MasterPort} {args data : List Byte} {s s' : State} {r : Result}
    (hlayout : LayoutLength fn args.length) (h : takeFunction fn p args s = .ok (s', r, data)) (hok : r ≠ .ok)
    (hclamped : r ≠ .okClamped) : data ≠ [] := by
  by_cases hfn : fn = .curvePut
  · subst hfn
    cases h
    simp
  · have hanswered := takeFunction_answered hfn hlayout p s
    rw [h] at hanswered
    exact (hanswered.elim hok hclamped).elim

/-- Settles O14: steps 6 to 8 change the state only with OK or OK_CLAMPED, CURVE PUT's aside, whose reply carries a cursor block. -/
theorem refusedRequestChangesNothing : Obligations.RefusedRequestChangesNothing := by
  intro fn p args s u f r hfree hexec hreply hok hclamped
  rw [exec_command] at hexec
  obtain rfl := Host.Outcome.next.inj hexec
  rcases s.takeRequest_cases p fn args (takeFunction fn) with ⟨hbusy, -⟩ | ⟨-, res, -, e⟩ | ⟨-, hearly, s', res, data, hbody, e⟩
  · rw [hfree] at hbusy
    cases hbusy
  · rw [e, State.sendReply_port_same] at hreply
    rw [e, Option.some.inj hreply]
  · rw [e, State.sendReply_port_same] at hreply
    obtain ⟨-, rfl, hdata⟩ : _ = f ∧ _ = r ∧ data = [] := by simpa using hreply
    refine absurd hdata (data_of_taken (State.layout_of_earlyRefusal hearly) hbody ?_ ?_)
    · rintro rfl
      exact hok rfl
    · rintro rfl
      exact hclamped rfl

/-- The replies and the framers of the ports are as they were. -/
def State.SameLines (s u : State) : Prop :=
  ∀ q, (u.port q).reply = (s.port q).reply ∧ (u.port q).framer = (s.port q).framer

theorem State.sameLines_of_masters {s u : State} (h : u.masters = s.masters) : s.SameLines u := fun q => by
  rw [State.port_of_masters h]
  exact ⟨rfl, rfl⟩

theorem State.SameLines.trans {s u v : State} (h : s.SameLines u) (h' : u.SameLines v) : s.SameLines v := fun q =>
  ⟨(h' q).1.trans (h q).1, (h' q).2.trans (h q).2⟩

theorem State.sameLines_setPort {s : State} {p : MasterPort} {r : MasterPortRec} (hreply : r.reply = (s.port p).reply)
    (hframer : r.framer = (s.port p).framer) : s.SameLines (s.setPort p r) := fun q => by
  rw [State.port_setPort]
  split
  · next h => exact h ▸ ⟨hreply, hframer⟩
  · exact ⟨rfl, rfl⟩

theorem State.sameLines_setCtx (s : State) (p : MasterPort) (c : WriteContext) : s.SameLines (s.setCtx p c) :=
  State.sameLines_setPort rfl rfl

theorem State.sameLines_setCursor (s : State) (p : MasterPort) (c : Cursor) : s.SameLines (s.setCursor p c) :=
  State.sameLines_setPort rfl rfl

theorem State.sameLines_storeSlot (s : State) (t : TowerIx) (n : SlotName) (sl : Slot) : s.SameLines (s.storeSlot t n sl) :=
  fun q => by rw [State.storeSlot_port]; exact ⟨rfl, rfl⟩

theorem State.sameLines_refreshCurve (s : State) (c : CurveIx) : s.SameLines (s.refreshCurve c) := by
  obtain ⟨-, -, -, hmasters, -, -, -⟩ := s.refreshCurve_spec c
  exact State.sameLines_of_masters hmasters

section Lines

variable {p : MasterPort} {args data : List Byte} {s s' : State} {r : Result}

theorem takeTowerOnly_lines {rule : TowerIx → Taken} (hrule : ∀ t, rule t = .ok (s', r, data) → s.SameLines s')
    (h : takeTowerOnly args rule = .ok (s', r, data)) : s.SameLines s' := by
  unfold takeTowerOnly at h
  split at h
  · split at h
    · exact hrule _ h
    · cases h
  · cases h

theorem takeMeasure_lines (h : takeMeasure p args s = .ok (s', r, data)) : s.SameLines s' := by
  have hentries : ∀ (t : TowerIx) (sheet : Sheet) (entries : List (Nat × Int)) (n : MeasureCounts) (s : State),
      s.SameLines (State.measureEntries t sheet entries n s).1 := by
    intro t sheet entries
    induction entries with
    | nil => exact fun n s => State.sameLines_of_masters rfl
    | cons e rest ih =>
      refine fun n s => State.SameLines.trans (State.sameLines_of_masters ?_) (ih _ _)
      unfold State.measureEntry
      simp only
      split
      · split_ifs
        · rfl
        · rfl
        · rfl
        · unfold State.putAcc
          split
          · rfl
          · exact State.refresh_masters ..
      · rfl
  unfold takeMeasure at h
  split at h
  · simp only at h
    split at h
    · split at h
      · cases h
        have hmeasure : ∀ t sheet entries, s.SameLines (s.measure t sheet entries).1 := by
          intro t sheet entries
          unfold State.measure
          split
          · exact hentries _ _ _ _ _
          · exact State.sameLines_of_masters rfl
        exact (hmeasure _ _ _).trans (State.sameLines_of_masters rfl)
      · cases h
    · cases h
  · cases h

theorem State.putWords_lines (p : MasterPort) (words : List Nat) (n : Nat) (s : State) :
    s.SameLines (State.putWords p words n s).1 :=
  State.putWords_keeps (Inv := s.SameLines) p (fun _ hu => hu.trans (State.sameLines_setCursor _ _ _))
    (fun _ _ hu _ => hu.trans (State.sameLines_setCursor _ _ _))
    (fun u _ _ points hu _ _ _ =>
      (hu.trans (State.sameLines_setCursor (u.setCurve _ points) p _)).trans (State.sameLines_refreshCurve _ _)) words n s
    (State.sameLines_of_masters rfl)

theorem State.takeTrims_lines {b : Byte} {entries : List (Nat × Int)} {wanted : Int → Int → Int}
    (h : s.takeTrims b entries wanted = .ok (s', r, data)) : s.SameLines s' := by
  have hputs : ∀ (t : TowerIx) (entries : List (Nat × Int)) (s : State),
      s.SameLines (State.putTrims t wanted entries s).1 := by
    intro t entries
    induction entries with
    | nil => exact fun s => State.sameLines_of_masters rfl
    | cons e rest ih =>
      intro s
      rw [State.putTrims_cons]
      exact State.SameLines.trans (State.sameLines_of_masters (s.putTrim_frame ..).2.2.2) (ih _)
  unfold State.takeTrims at h
  split at h
  · split at h
    · cases h
      exact hputs _ _ _
    · cases h
  · cases h

theorem takeCurveClear_lines (h : takeCurveClear p args s = .ok (s', r, data)) : s.SameLines s' := by
  unfold takeCurveClear at h
  split at h
  · split at h
    · next c _ =>
      obtain ⟨rfl, -⟩ := Prod.mk.inj (Except.ok.inj h)
      refine State.SameLines.trans (u := (s.setCurve c []).resetCursors c) (fun q => ?_) (State.sameLines_refreshCurve _ _)
      rw [State.resetCursors_port]
      exact ⟨rfl, rfl⟩
    · cases h
  · cases h

theorem takeSlotClear_lines (h : takeSlotClear p args s = .ok (s', r, data)) : s.SameLines s' := by
  unfold takeSlotClear at h
  split at h
  · split at h
    · simp only at h
      split at h
      · split at h
        · cases h
          split
          · exact State.sameLines_of_masters (State.refresh_masters ..)
          · exact State.sameLines_of_masters rfl
        · cases h
          exact State.sameLines_of_masters rfl
      · cases h
    · cases h
  · cases h

theorem takeSlotTagSet_lines (h : takeSlotTagSet p args s = .ok (s', r, data)) : s.SameLines s' := by
  unfold takeSlotTagSet at h
  split at h
  · split at h
    · simp only at h
      split at h
      · split at h
        · cases h
          split
          · exact State.sameLines_of_masters (State.refresh_masters ..)
          · exact State.sameLines_of_masters rfl
        · cases h
          exact State.sameLines_of_masters rfl
      · cases h
    · cases h
  · cases h

/-- The functions' own steps leave every port's reply and framer (R149). -/
theorem takeFunction_lines {fn : MasterFn} (h : takeFunction fn p args s = .ok (s', r, data)) : s.SameLines s' := by
  have hsame : ∀ {u : State}, u.masters = s.masters → s.SameLines u := State.sameLines_of_masters
  cases fn with
  | identify | sheetGet | zonesRead | restart =>
    cases h
    exact hsame rfl
  | towerStatus => exact hsame (takeTowerStatus_state (p := p) h ▸ rfl)
  | keyStatus => exact hsame (takeKeyStatus_state (p := p) h ▸ rfl)
  | configGet => exact hsame (takeConfigGet_state (p := p) h ▸ rfl)
  | zonesAbove => exact hsame (takeZonesAbove_state (p := p) h ▸ rfl)
  | faultsTake | accessSet | clearKeyFault =>
    simp only [takeFunction, takeFaultsTake, takeAccessSet, takeClearKeyFault] at h
    repeat' split at h
    all_goals cases h
    all_goals exact hsame rfl
  | windowSet | writeModeSet =>
    simp only [takeFunction, takeWindowSet, takeWriteModeSet] at h
    repeat' split at h
    all_goals cases h
    all_goals exact s.sameLines_setCtx p _
  | zonesWrite =>
    simp only [takeFunction, takeZonesWrite] at h
    split at h
    · cases h
      exact (s.sameLines_setCtx p _).trans (State.sameLines_storeSlot _ _ _ _)
    · cases h
  | zonesFill =>
    simp only [takeFunction, takeZonesFill] at h
    repeat' split at h
    all_goals cases h
    exact State.sameLines_storeSlot _ _ _ _
  | slotClear => exact takeSlotClear_lines (p := p) h
  | slotTagSet => exact takeSlotTagSet_lines (p := p) h
  | curveSelect | curveGet =>
    simp only [takeFunction, takeCurveSelect, takeCurveGet] at h
    repeat' split at h
    all_goals cases h
    all_goals exact s.sameLines_setCursor p _
  | curvePut =>
    cases h
    exact State.putWords_lines _ _ _ _
  | curveClear => exact takeCurveClear_lines (p := p) h
  | measure => exact takeMeasure_lines (p := p) h
  | configSet =>
    obtain ⟨t, c, rfl⟩ := takeConfigSet_state (p := p) h
    intro q
    rcases s.configure_port t c q with e | e <;> rw [e] <;> exact ⟨rfl, rfl⟩
  | engage =>
    refine takeTowerOnly_lines (fun t h => ?_) h
    simp only at h
    split_ifs at h <;> cases h <;> exact hsame rfl
  | disengage =>
    refine takeTowerOnly_lines (fun t h => ?_) h
    cases h
    exact hsame rfl
  | jobChange =>
    simp only [takeFunction, takeJobChange] at h
    repeat' split at h
    all_goals cases h
    exact hsame (State.jobChange_masters ..)
  | hold =>
    refine takeTowerOnly_lines (fun t h => ?_) h
    split at h <;> cases h <;> exact hsame rfl
  | release =>
    refine takeTowerOnly_lines (fun t h => ?_) h
    simp only at h
    repeat' split at h
    all_goals cases h
    all_goals exact hsame rfl
  | trimSet | trimNudge =>
    cases args with
    | nil => cases h
    | cons b entries => exact State.takeTrims_lines h

/-- Settles O15. -/
theorem everyRequestIsAnsweredOnce : Obligations.EveryRequestIsAnsweredOnce := by
  intro fn p args s hfree
  obtain ⟨data, hreply⟩ := State.takeRequest_reply hfree fn args (takeFunction fn)
  refine ⟨_, _, data, exec_command fn p args s, hreply, Result.code_toNat_le _, ?_⟩
  have hsent : ∀ (u : State) (body : List Byte), s.SameLines u → ((u.sendReply p body).port p).framer.phase = .hunt ∧
      ∀ q, q ≠ p → ((u.sendReply p body).port q).reply = (s.port q).reply ∧
        ((u.sendReply p body).port q).framer = (s.port q).framer := fun u body hu => by
    refine ⟨by rw [State.sendReply_port_same]; rfl, fun q hq => ?_⟩
    rw [State.sendReply_port_of_ne _ _ hq]
    exact hu q
  rcases s.takeRequest_cases p fn args (takeFunction fn) with ⟨hbusy, -⟩ | ⟨-, res, -, e⟩ | ⟨-, -, s', res, data, hbody, e⟩
  · rw [hfree] at hbusy
    cases hbusy
  · exact e ▸ hsent s _ (State.sameLines_of_masters rfl)
  · exact e ▸ hsent s' _ (takeFunction_lines hbody)

end Lines

/-! ### Busy ports (R148) -/

theorem exec_masterBadFrame (p : MasterPort) (first : Option Byte) (s : State) :
    exec (.masterBadFrame p first) s = .next (s.takeBadFrame p first) := rfl

theorem exec_masterLinkCharacter (p : MasterPort) (ch : Character) (s : State) :
    exec (.masterLinkCharacter p ch) s = execMasterLinkCharacter p ch s := rfl

theorem State.takeFrame_busy {s : State} {p : MasterPort} (h : s.busy p = true) (code : Byte) (args : List Byte) :
    s.takeFrame p code args = s := by
  unfold State.takeFrame
  split
  · exact State.takeRequest_busy h ..
  · exact if_pos h

/-- Settles O16. -/
theorem busyPortTakesNothing : Obligations.BusyPortTakesNothing := by
  intro p s hbusy
  refine ⟨fun fn args => ?_, fun code args => ?_, fun first => ?_, fun ch => ?_⟩
  · rw [exec_command, State.takeRequest_busy hbusy]
  · rw [exec_unknownFunction, State.takeFrame_busy hbusy]
  · rw [exec_masterBadFrame, State.takeBadFrame, if_pos hbusy]
  · rw [exec_masterLinkCharacter, execMasterLinkCharacter, if_pos hbusy]

end Sys2Proof.Machine

/-! SUPPORT. The receive framers: what each character makes of a framer, and the frames that characters carry (R143, R147). -/

namespace Sys2Proof.Machine

/-! ### The sum of a frame (R147) -/

theorem foldl_add_toNat (body : List Byte) (x : Byte) :
    (body.foldl (· + ·) x).toNat = (x.toNat + (body.map BitVec.toNat).sum) % 256 := by
  induction body generalizing x with
  | nil =>
    have := x.isLt
    simp only [List.foldl_nil, List.map_nil, List.sum_nil]
    omega
  | cons b body ih =>
    rw [List.foldl_cons, ih, BitVec.toNat_add, List.map_cons, List.sum_cons]
    omega

theorem frameSum_eq_zero_iff (len : Nat) (body : List Byte) (check : Byte) :
    frameSum len body check = 0#8 ↔ (len + (body.map BitVec.toNat).sum + check.toNat) % 256 = 0 := by
  rw [← BitVec.toNat_inj, frameSum, BitVec.toNat_add, foldl_add_toNat, BitVec.toNat_ofNat, BitVec.toNat_ofNat]
  omega

/-- The check byte brings the sum of its frame to zero (R147). -/
theorem frameSum_checkByte (body : List Byte) : frameSum body.length body (checkByte body) = 0#8 := by
  simp [checkByte, frameSum]

theorem goodParity_goodCharacter (b : Byte) : goodParity (goodCharacter b) = true := by
  unfold goodParity goodCharacter
  simp only [beq_iff_eq]
  generalize (List.range 8).countP (fun i => b.getLsbD i) = n
  rcases Nat.mod_two_eq_zero_or_one n with h | h
  · simp [h]
    omega
  · simp [h]

/-! ### A framer, phase by phase (R147) -/

section Phases

variable {f : Framer} {ch : Character}

theorem Framer.take_sync (h : f.phase = .hunt) (hsync : ch.data = 0xA5#8) (hparity : goodParity ch = true) :
    f.take ch = .moved { phase := .length, marker := false, timer := true, len := 0, body := [] } := by
  simp [Framer.take, h, hsync, hparity]

theorem Framer.take_hunt (h : f.phase = .hunt) (hother : ch.data ≠ 0xA5#8 ∨ goodParity ch = false) : f.take ch = .moved f := by
  unfold Framer.take
  rw [h]
  refine if_neg fun ⟨hsync, hparity⟩ => ?_
  rcases hother with hother | hother
  · exact hother hsync
  · rw [hother] at hparity
    cases hparity

theorem Framer.take_length (h : f.phase = .length) (hlo : 1 ≤ ch.data.toNat) (hhi : ch.data.toNat ≤ 250) :
    f.take ch = .moved { f with phase := .body, len := ch.data.toNat, marker := f.marker || !goodParity ch, timer := true } := by
  simp [Framer.take, h, hlo, hhi, Framer.marked]

theorem Framer.take_badLength (h : f.phase = .length) (hbad : ch.data.toNat = 0 ∨ 250 < ch.data.toNat) :
    f.take ch = .badLength := by
  unfold Framer.take
  rw [h]
  exact if_neg (by simp only [Config.maxFrameLength]; omega)

theorem Framer.take_body (h : f.phase = .body) :
    f.take ch = .moved { f with phase := if f.body.length + 1 < f.len then .body else .check, body := f.body ++ [ch.data],
                                marker := f.marker || !goodParity ch, timer := true } := by
  simp [Framer.take, h, Framer.marked]

theorem Framer.take_check (h : f.phase = .check) :
    f.take ch = .ended (!(f.marker || !goodParity ch) && frameSum f.len f.body ch.data == 0#8) f.body := by
  simp [Framer.take, h, Framer.marked]

/-- A frame ends good where no character was bad and its sum is zero (R147). -/
theorem Framer.take_good (h : f.phase = .check) (hmarked : (f.marker || !goodParity ch) = false)
    (hsum : (f.len + (f.body.map BitVec.toNat).sum + ch.data.toNat) % 256 = 0) : f.take ch = .ended true f.body := by
  rw [Framer.take_check h, hmarked, (frameSum_eq_zero_iff ..).mpr hsum]
  rfl

theorem Framer.take_bad (h : f.phase = .check)
    (hbad : (f.marker || !goodParity ch) = true ∨ (f.len + (f.body.map BitVec.toNat).sum + ch.data.toNat) % 256 ≠ 0) :
    f.take ch = .ended false f.body := by
  rw [Framer.take_check h]
  congr 1
  rw [Bool.and_eq_false_iff, beq_eq_false_iff_ne, ne_eq, frameSum_eq_zero_iff]
  exact hbad.imp (fun hm => by simp [hm]) id

end Phases

/-! ### Master ports -/

theorem exec_masterFrameAbandon (p : MasterPort) (s : State) :
    exec (.masterFrameAbandon p) s = if (s.port p).framer.timer then .next (s.setFramer p Framer.hunting) else .next s := rfl

theorem exec_decodeRequest (p : MasterPort) (code : Byte) (args : List Byte) (s : State) :
    exec (decodeRequest p code args) s = .next (s.takeFrame p code args) := by
  unfold decodeRequest
  cases hcode : MasterFn.ofCode code with
  | some fn =>
    rw [State.takeFrame, hcode]
    exact exec_command fn p args s
  | none => rfl

theorem State.setFramer_self (s : State) (p : MasterPort) : s.setFramer p (s.port p).framer = s := by cases p <;> rfl

theorem State.takeBadFrame_of_free {s : State} {p : MasterPort} (hfree : s.busy p = false) (f : Framer) (first : Option Byte) :
    (s.setFramer p f).takeBadFrame p first =
      (s.logFault .linkFrame (.port p)).sendReply p [first.getD 0x00#8 + 0x80#8, 0x02#8] := by
  rw [State.takeBadFrame, State.setFramer_busy, hfree]
  cases p <;> rfl

section Characters

variable {p : MasterPort} {ch : Character} {s : State} (hfree : s.busy p = false)
include hfree

theorem exec_masterLinkCharacter_moved {g : Framer} (h : (s.port p).framer.take ch = .moved g) :
    exec (.masterLinkCharacter p ch) s = .next (s.setFramer p g) := by
  simp only [exec_masterLinkCharacter, execMasterLinkCharacter, hfree, h]
  rfl

theorem exec_masterLinkCharacter_badLength (h : (s.port p).framer.take ch = .badLength) :
    exec (.masterLinkCharacter p ch) s = .next ((s.logFault .linkFrame (.port p)).sendReply p [0x00#8 + 0x80#8, 0x02#8]) := by
  simp only [exec_masterLinkCharacter, execMasterLinkCharacter, hfree, h, State.takeBadFrame_of_free hfree]
  rfl

theorem exec_masterLinkCharacter_good {code : Byte} {args : List Byte}
    (h : (s.port p).framer.take ch = .ended true (code :: args)) :
    exec (.masterLinkCharacter p ch) s = exec (decodeRequest p code args) (s.setFramer p Framer.hunting) := by
  simp only [exec_masterLinkCharacter, execMasterLinkCharacter, hfree, h, exec_decodeRequest]
  rfl

theorem exec_masterLinkCharacter_bad {code : Byte} {args : List Byte}
    (h : (s.port p).framer.take ch = .ended false (code :: args)) :
    exec (.masterLinkCharacter p ch) s =
      .next ((s.logFault .linkFrame (.port p)).sendReply p [code + 0x80#8, 0x02#8]) := by
  simp only [exec_masterLinkCharacter, execMasterLinkCharacter, hfree, h, State.takeBadFrame_of_free hfree]
  rfl

end Characters

/-- Settles O19, phase by phase. -/
theorem masterPortFraming : Obligations.MasterPortFraming := by
  refine ⟨fun p ch s hfree => ⟨fun hphase hsync hparity => ?_, fun hphase hother => ?_, fun hphase hlo hhi => ?_,
    fun hphase hbad => ?_, fun hphase => ?_, fun hphase code args hbody => ⟨fun hmarked hsum => ?_, fun hbad => ?_⟩⟩,
    fun p first s hfree => ?_, fun p s => ⟨fun htimer => ⟨Framer.hunting, ?_, rfl, rfl⟩, fun htimer => ?_⟩⟩
  · exact ⟨_, exec_masterLinkCharacter_moved hfree (Framer.take_sync hphase hsync hparity), rfl, rfl, rfl, rfl⟩
  · rw [exec_masterLinkCharacter_moved hfree (Framer.take_hunt hphase hother), State.setFramer_self]
  · exact exec_masterLinkCharacter_moved hfree (Framer.take_length hphase hlo hhi)
  · exact exec_masterLinkCharacter_badLength hfree (Framer.take_badLength hphase hbad)
  · exact exec_masterLinkCharacter_moved hfree (Framer.take_body hphase)
  · exact exec_masterLinkCharacter_good hfree (hbody ▸ Framer.take_good hphase hmarked hsum)
  · exact exec_masterLinkCharacter_bad hfree (hbody ▸ Framer.take_bad hphase hbad)
  · rw [exec_masterBadFrame, State.takeBadFrame, if_neg (by simp [hfree])]
    rfl
  · rw [exec_masterFrameAbandon, if_pos htimer]
  · rw [exec_masterFrameAbandon, if_neg (by simp [htimer])]

/-! ### Drive ports -/

theorem exec_drivePortCharacter (t : TowerIx) (ch : Character) (s : State) :
    exec (.drivePortCharacter t ch) s = execDrivePortCharacter t ch s := rfl

theorem exec_drivePortBadFrame (t : TowerIx) (s : State) : exec (.drivePortBadFrame t) s = .next (s.badDriveFrame t) := rfl

theorem exec_driveFrameAbandon (t : TowerIx) (s : State) :
    exec (.driveFrameAbandon t) s = if (s.tower t).port.framer.timer then .next (s.huntDrive t) else .next s := rfl

/-- A report's command takes it from the end of its frame (R131, R132, R137). -/
theorem exec_report (r : Report) (t : TowerIx) (s : State) : exec (r.command t) s = .next ((s.huntDrive t).takeReport t r) := by
  cases r <;> rfl

section DriveCharacters

variable {t : TowerIx} {ch : Character} {s : State}

theorem exec_drivePortCharacter_moved {g : Framer} (h : (s.tower t).port.framer.take ch = .moved g) :
    exec (.drivePortCharacter t ch) s = .next (s.setTower t ((s.tower t).setFramer g)) := by
  simp only [exec_drivePortCharacter, execDrivePortCharacter, h]

theorem exec_drivePortCharacter_good {body : List Byte} {r : Report} (h : (s.tower t).port.framer.take ch = .ended true body)
    (hr : decodeReport body = some r) : exec (.drivePortCharacter t ch) s = exec (r.command t) s := by
  simp only [exec_drivePortCharacter, execDrivePortCharacter, h, hr, exec_report]

theorem exec_drivePortCharacter_badLength (h : (s.tower t).port.framer.take ch = .badLength) :
    exec (.drivePortCharacter t ch) s = .next (s.badDriveFrame t) := by
  simp only [exec_drivePortCharacter, execDrivePortCharacter, h]

theorem exec_drivePortCharacter_bad {good : Bool} {body : List Byte} (h : (s.tower t).port.framer.take ch = .ended good body)
    (hbad : good = false ∨ decodeReport body = none) : exec (.drivePortCharacter t ch) s = .next (s.badDriveFrame t) := by
  simp only [exec_drivePortCharacter, execDrivePortCharacter, h]
  split
  · next hr =>
    rcases hbad with hbad | hbad
    · cases hbad
    · rw [hbad] at hr
      cases hr
  · rfl

/-- A frame that ends with a bad character, a wrong sum, or a body that is no report is discarded (R143). -/
theorem exec_drivePortCharacter_checked (hphase : (s.tower t).port.framer.phase = .check)
    (hbad : ((s.tower t).port.framer.marker || !goodParity ch) = true ∨
      ((s.tower t).port.framer.len + ((s.tower t).port.framer.body.map BitVec.toNat).sum + ch.data.toNat) % 256 ≠ 0 ∨
      decodeReport (s.tower t).port.framer.body = none) :
    exec (.drivePortCharacter t ch) s = .next (s.badDriveFrame t) := by
  rcases hbad with hbad | hbad | hbad
  · exact exec_drivePortCharacter_bad (Framer.take_bad hphase (.inl hbad)) (.inl rfl)
  · exact exec_drivePortCharacter_bad (Framer.take_bad hphase (.inr hbad)) (.inl rfl)
  · exact exec_drivePortCharacter_bad (Framer.take_check hphase) (.inr hbad)

end DriveCharacters

theorem State.setTower_setFramer_self (s : State) (t : TowerIx) :
    s.setTower t ((s.tower t).setFramer (s.tower t).port.framer) = s := s.setTower_self t

/-- A body of another code, another length or another fault kind than the layouts give is no report (R143, checks 2 to 4). -/
theorem decodeReport_of_malformed {code : Byte} {fields : List Byte}
    (h : code ∉ [0x60#8, 0x61#8, 0x62#8] ∨ (code ∈ [0x60#8, 0x62#8] ∧ fields.length ≠ 3) ∨
      (code = 0x61#8 ∧ (fields.length ≠ 4 ∨ ∃ kind ∈ fields[1]?, 3 ≤ kind.toNat))) : decodeReport (code :: fields) = none := by
  obtain ⟨-, -, -, -, -, -, -, -, -, -, -, -, -, -, -, -, -, -, -, -, hlayouts, hcodes, hlengths, hfault, -⟩ := codesAreAsTabled
  rcases h with h | ⟨hcode, hlength⟩ | ⟨rfl, hlength | ⟨kind, hkind, hlarge⟩⟩
  · exact hcodes code fields h
  · exact hlengths code fields hcode hlength
  · exact hfault fields hlength
  · by_cases hlength : fields.length = 4
    · obtain ⟨k, kind', b, c, rfl⟩ := exists_of_length_four hlength
      obtain rfl : kind' = kind := by simpa using hkind
      exact (hlayouts k b c).2.2.2.2.2 kind' hlarge
    · exact hfault fields hlength

/-- Settles O20, phase by phase. -/
theorem drivePortFraming : Obligations.DrivePortFraming := by
  refine ⟨fun t ch s => ?_, fun t s => ⟨fun htimer => ⟨Framer.hunting, rfl, rfl, ?_⟩, fun htimer => ?_⟩⟩
  · have hbad : ∀ {i : Instr}, exec i s = .next (s.badDriveFrame t) → ∃ u, exec i s = .next u ∧
        ∃ g : Framer, g.phase = .hunt ∧ g.timer = false ∧
          u = (s.setTower t { s.tower t with port := { (s.tower t).port with framer := g } }).logFault .linkFrame (.tower t) :=
      fun h => ⟨_, h, Framer.hunting, rfl, rfl, rfl⟩
    refine ⟨fun hphase hsync hparity => ?_, fun hphase hother => ?_, fun hphase hlo hhi => ?_, fun hphase hlength => ?_,
      fun hphase => ?_, fun hphase => ⟨fun r hmarked hsum hr => ?_, fun hcheck => ?_, fun code fields hbody hmal => ?_⟩, ?_⟩
    · exact ⟨_, exec_drivePortCharacter_moved (Framer.take_sync hphase hsync hparity), rfl, rfl, rfl, rfl⟩
    · rw [exec_drivePortCharacter_moved (Framer.take_hunt hphase hother), State.setTower_setFramer_self]
    · exact exec_drivePortCharacter_moved (Framer.take_length hphase hlo hhi)
    · exact hbad (exec_drivePortCharacter_badLength (Framer.take_badLength hphase hlength))
    · exact exec_drivePortCharacter_moved (Framer.take_body hphase)
    · exact exec_drivePortCharacter_good (Framer.take_good hphase hmarked hsum) hr
    · exact hbad (exec_drivePortCharacter_checked hphase hcheck)
    · have hnone : decodeReport (s.tower t).port.framer.body = none := hbody ▸ decodeReport_of_malformed hmal
      exact ⟨hnone, hbad (exec_drivePortCharacter_checked hphase (.inr (.inr hnone)))⟩
    · exact hbad (exec_drivePortBadFrame t s)
  · rw [exec_driveFrameAbandon, if_pos htimer]
    rfl
  · rw [exec_driveFrameAbandon, if_neg (by simp [htimer])]

end Sys2Proof.Machine

/-! SUPPORT. A frame sent as characters is received as the command that its body is (R130, R143, R147). -/

namespace Sys2Proof.Machine

/-! ### A framer over the characters of a frame -/

/-- A framer after characters of which none ends a frame. -/
def Framer.moves : Framer → List Character → Option Framer
  | f, [] => some f
  | f, ch :: rest =>
    match f.take ch with
    | .moved g => g.moves rest
    | .badLength => none
    | .ended _ _ => none

theorem Framer.moves_cons {f g : Framer} {ch : Character} (h : f.take ch = .moved g) (rest : List Character) :
    f.moves (ch :: rest) = g.moves rest := by
  rw [Framer.moves, h]

/-- The framer of a frame without a bad character, in BODY or, once LEN bytes are in, in CHECK (R147). -/
def Framer.collecting (len : Nat) (body : List Byte) : Framer :=
  { phase := if body.length < len then .body else .check, marker := false, timer := true, len := len, body := body }

theorem Framer.moves_body {len : Nat} (bytes body : List Byte) (h : body.length + bytes.length = len) :
    (Framer.collecting len body).moves (bytes.map goodCharacter) = some (Framer.collecting len (body ++ bytes)) := by
  induction bytes generalizing body with
  | nil => simp [Framer.moves]
  | cons b bytes ih =>
    rw [List.length_cons] at h
    have hphase : (Framer.collecting len body).phase = .body := if_pos (by omega)
    rw [List.map_cons, Framer.moves_cons (Framer.take_body hphase), goodParity_goodCharacter]
    have hnext := ih (body ++ [b]) (by rw [List.length_append]; simp only [List.length_singleton]; omega)
    rw [List.append_assoc, List.singleton_append] at hnext
    rw [← hnext]
    simp only [Framer.collecting, goodCharacter, List.length_append, List.length_singleton]
    rfl

/-- The characters of a frame but for the last bring a framer in HUNT to CHECK with the body collected (R147). -/
theorem Framer.moves_frame {body : List Byte} (hlo : 1 ≤ body.length) (hhi : body.length ≤ 250) :
    Framer.hunting.moves ((Config.syncCharacter :: byteOf body.length :: body).map goodCharacter) =
      some (Framer.collecting body.length body) := by
  have hlen : (goodCharacter (byteOf body.length)).data.toNat = body.length := byteOf_toNat (by omega)
  rw [List.map_cons, List.map_cons, Framer.moves_cons (Framer.take_sync (ch := goodCharacter Config.syncCharacter) rfl rfl (goodParity_goodCharacter _)),
    Framer.moves_cons (Framer.take_length rfl (by omega) (by omega)), goodParity_goodCharacter, hlen]
  have := Framer.moves_body (len := body.length) body [] (by simp)
  rw [List.nil_append] at this
  rw [← this]
  have hphase : ([] : List Byte).length < body.length := hlo
  simp only [Framer.collecting, if_pos hphase]
  rfl

/-- The last character ends the frame good (R147). -/
theorem Framer.take_checkByte (body : List Byte) :
    (Framer.collecting body.length body).take (goodCharacter (checkByte body)) = .ended true body := by
  refine Framer.take_good (if_neg (Nat.lt_irrefl _)) (by rw [goodParity_goodCharacter]; rfl) ?_
  rw [← frameSum_eq_zero_iff]
  exact frameSum_checkByte body

theorem frameCharacters_eq (body : List Byte) : frameCharacters body =
    (Config.syncCharacter :: byteOf body.length :: body).map goodCharacter ++ [goodCharacter (checkByte body)] := by
  simp [frameCharacters]

/-! ### A run over characters -/

theorem core_run_succ {M : Host.Core} {n : Nat} {s u : M.State} (h : M.step s = .next u) : M.run (n + 1) s = M.run n u := by
  simp only [Host.Core.run, h]

theorem run_succ {n : Nat} {i : Instr} {q : List Instr} {s u : State} (h : exec i { s with pending := q } = .next u) :
    Host.Core.run core (n + 1) { s with pending := i :: q } = Host.Core.run core n u :=
  core_run_succ (M := core) h

theorem run_one {i : Instr} {q : List Instr} {s u : State} (h : exec i { s with pending := q } = .next u) :
    Host.Core.run core 1 { s with pending := i :: q } = .next u := by
  rw [run_succ h]
  rfl

theorem State.setFramer_setFramer (s : State) (p : MasterPort) (f g : Framer) : (s.setFramer p f).setFramer p g = s.setFramer p g := by
  cases p <;> rfl

theorem State.setFramer_with_pending (s : State) (p : MasterPort) (f : Framer) (q : List Instr) :
    ({ s with pending := q } : State).setFramer p f = { s.setFramer p f with pending := q } := by cases p <;> rfl

theorem run_masterCharacters {p : MasterPort} {s : State} (hfree : s.busy p = false) {chars : List Character} {g : Framer}
    (h : (s.port p).framer.moves chars = some g) (n : Nat) (q : List Instr) :
    Host.Core.run core (chars.length + n) { s with pending := chars.map (.masterLinkCharacter p) ++ q } =
      Host.Core.run core n { s.setFramer p g with pending := q } := by
  induction chars generalizing s with
  | nil =>
    obtain rfl := Option.some.inj h
    rw [State.setFramer_self, List.length_nil, Nat.zero_add]
    rfl
  | cons ch chars ih =>
    cases htake : (s.port p).framer.take ch with
    | moved f =>
      rw [Framer.moves_cons htake] at h
      have hfree' : (s.setFramer p f).busy p = false := by rwa [State.setFramer_busy]
      have hmove := exec_masterLinkCharacter_moved (s := { s with pending := chars.map (.masterLinkCharacter p) ++ q }) (g := f)
        (ch := ch) (p := p) hfree htake
      rw [State.setFramer_with_pending] at hmove
      rw [List.length_cons, Nat.succ_add, List.map_cons, List.cons_append, run_succ hmove, ih hfree' (by simpa using h),
        State.setFramer_setFramer]
    | badLength => simp [Framer.moves, htake] at h
    | ended good body => simp [Framer.moves, htake] at h

/-- Settles O17: the framer collects the body character by character, and the last character takes the frame. -/
theorem masterFrameIsReceived : Obligations.MasterFrameIsReceived := by
  intro p code args rest s hfree hhunt hlength
  have hlo : 1 ≤ (code :: args).length := by simp
  have hhi : (code :: args).length ≤ 250 := by simp only [List.length_cons]; omega
  have hmoves := Framer.moves_frame hlo hhi
  rw [← hhunt] at hmoves
  have hcount : args.length + 4 =
      ((Config.syncCharacter :: byteOf (code :: args).length :: code :: args).map goodCharacter).length + 1 := by simp
  have hpending : (frameCharacters (code :: args)).map (Instr.masterLinkCharacter p) ++ rest =
      ((Config.syncCharacter :: byteOf (code :: args).length :: code :: args).map goodCharacter).map (.masterLinkCharacter p) ++
        (.masterLinkCharacter p (goodCharacter (checkByte (code :: args))) :: rest) := by
    rw [frameCharacters_eq]
    simp
  rw [hcount, hpending, run_masterCharacters hfree hmoves]
  have hfree' : ({ s.setFramer p (Framer.collecting (code :: args).length (code :: args)) with pending := rest } : State).busy p =
      false := by rwa [← State.setFramer_with_pending, State.setFramer_busy]
  have htake : (({ s.setFramer p (Framer.collecting (code :: args).length (code :: args)) with pending := rest } : State).port
      p).framer.take (goodCharacter (checkByte (code :: args))) = .ended true (code :: args) := by
    rw [← State.setFramer_with_pending, State.setFramer_port_same]
    exact Framer.take_checkByte (code :: args)
  have hgood := exec_masterLinkCharacter_good hfree' htake
  have hback : ({ s.setFramer p (Framer.collecting (code :: args).length (code :: args)) with pending := rest } : State).setFramer p
      Framer.hunting = { s with pending := rest } := by
    rw [← State.setFramer_with_pending, State.setFramer_setFramer, State.setFramer_with_pending, ← hhunt, State.setFramer_self]
  rw [hback, exec_decodeRequest] at hgood
  rw [exec_decodeRequest]
  exact run_one hgood

/-! ### Drive ports -/

theorem run_driveCharacters {t : TowerIx} {s : State} {chars : List Character} {g : Framer}
    (h : (s.tower t).port.framer.moves chars = some g) (n : Nat) (q : List Instr) :
    Host.Core.run core (chars.length + n) { s with pending := chars.map (.drivePortCharacter t) ++ q } =
      Host.Core.run core n { s.setTower t ((s.tower t).setFramer g) with pending := q } := by
  induction chars generalizing s with
  | nil =>
    obtain rfl := Option.some.inj h
    rw [State.setTower_setFramer_self, List.length_nil, Nat.zero_add]
    rfl
  | cons ch chars ih =>
    cases htake : (s.tower t).port.framer.take ch with
    | moved f =>
      rw [Framer.moves_cons htake] at h
      have hmove := exec_drivePortCharacter_moved (s := { s with pending := chars.map (.drivePortCharacter t) ++ q }) (g := f)
        (ch := ch) (t := t) htake
      have hnext := ih (s := s.setTower t ((s.tower t).setFramer f)) (by rw [State.tower_setTower_same]; exact h)
      rw [State.tower_setTower_same, State.setTower_setTower] at hnext
      rw [List.length_cons, Nat.succ_add, List.map_cons, List.cons_append, run_succ hmove]
      exact hnext
    | badLength => simp [Framer.moves, htake] at h
    | ended good body => simp [Framer.moves, htake] at h

theorem length_of_decodeReport {body : List Byte} {r : Report} (h : decodeReport body = some r) :
    1 ≤ body.length ∧ body.length ≤ 250 := by
  rcases decodeReport_isSome (by rw [h]; rfl : (decodeReport body).isSome = true) with ⟨code, fields, rfl, -, hl⟩ | ⟨fields, rfl, hl⟩ <;>
    rw [List.length_cons, hl] <;> omega

/-- Settles O18, as O17 on a drive port. -/
theorem driveFrameIsReceived : Obligations.DriveFrameIsReceived := by
  intro t body r rest s hr hhunt
  obtain ⟨hlo, hhi⟩ := length_of_decodeReport hr
  have hmoves := Framer.moves_frame hlo hhi
  rw [← hhunt] at hmoves
  have hcount : body.length + 3 = ((Config.syncCharacter :: byteOf body.length :: body).map goodCharacter).length + 1 := by simp
  have hpending : (frameCharacters body).map (Instr.drivePortCharacter t) ++ rest =
      ((Config.syncCharacter :: byteOf body.length :: body).map goodCharacter).map (.drivePortCharacter t) ++
        (.drivePortCharacter t (goodCharacter (checkByte body)) :: rest) := by
    rw [frameCharacters_eq]
    simp
  rw [hcount, hpending, run_driveCharacters hmoves]
  have htower : ({ s.setTower t ((s.tower t).setFramer (Framer.collecting body.length body)) with pending := rest } : State).tower t =
      (s.tower t).setFramer (Framer.collecting body.length body) := State.tower_setTower_same ..
  have hgood := exec_drivePortCharacter_good (t := t) (ch := goodCharacter (checkByte body))
    (s := { s.setTower t ((s.tower t).setFramer (Framer.collecting body.length body)) with pending := rest })
    (by rw [htower]; exact Framer.take_checkByte body) hr
  rw [exec_report] at hgood ⊢
  have hback : ({ s.setTower t ((s.tower t).setFramer (Framer.collecting body.length body)) with pending := rest } : State).huntDrive t =
      ({ s with pending := rest } : State).huntDrive t := by
    rw [State.huntDrive, htower]
    exact State.setTower_setTower { s with pending := rest } t _ _
  rw [hback] at hgood
  exact run_one hgood

end Sys2Proof.Machine

/-! SUPPORT. The dispatch check, the drain check and the SWEEP check written out (R118, R120, R127). -/

namespace Sys2Proof.Machine

/-- Every key in the queue is there once, QUEUED with a target: what the dispatch check needs (R127). -/
def Tower.QueueReady (tw : Tower) : Prop :=
  tw.queue.Nodup ∧ ∀ k ∈ tw.queue, ∃ (key : KeyRec) (q : Nat) (g : Target),
    tw.keys[k]? = some key ∧ key.drive = .queued q ∧ key.target = some g

theorem Tower.QueueSound.ready {tw : Tower} (h : tw.QueueSound) : tw.QueueReady := by
  obtain ⟨hnodup, hmem, -, haway⟩ := h
  refine ⟨hnodup, fun k hk => ?_⟩
  have hqueued := (hmem k).mp hk
  cases hkey : tw.keys[k]? with
  | none => simp [Tower.isQueued, hkey] at hqueued
  | some key =>
    have hsound := haway key (List.mem_of_getElem? hkey)
    cases hdrive : key.drive <;> simp [Tower.isQueued, hkey, hdrive, Drive.state] at hqueued
    next q =>
    simp only [KeyRec.QueuedSound, hdrive, KeyRec.steps] at hsound
    obtain ⟨steps, hsteps, -⟩ := hsound
    obtain ⟨g, hg, -⟩ := Option.map_eq_some_iff.mp hsteps
    exact ⟨key, q, g, rfl, hdrive, hg⟩

theorem Tower.afterDispatch_of_no_slots {tw : Tower} (h : tw.slots = 0) : tw.afterDispatch = tw := by
  have hkeys : tw.keys.mapIdx (fun _ key => key) = tw.keys := List.ext_getElem? fun i => by
    rw [List.getElem?_mapIdx, Option.map_id']
  simp [Tower.afterDispatch, h, DrivePort.sendAll, hkeys]

theorem Tower.slots_of_running {tw : Tower} (h : tw.running = true) :
    tw.slots = min tw.queue.length (tw.config.drive.concurrency - tw.moving) :=
  if_pos (by simpa [Tower.running] using h)

theorem Tower.slots_of_stopped {tw : Tower} (h : tw.running = false) : tw.slots = 0 :=
  if_neg (by simpa [Tower.running] using h)

/-- Where no key is sent there is no free motor slot or no key waiting. -/
theorem Tower.slots_of_no_head {tw : Tower} (hready : tw.QueueReady) (h : tw.dispatchHead = none) : tw.slots = 0 := by
  cases hrunning : tw.running with
  | false => exact Tower.slots_of_stopped hrunning
  | true =>
    rw [Tower.slots_of_running hrunning]
    cases hqueue : tw.queue with
    | nil => simp
    | cons k rest =>
      obtain ⟨key, q, g, hkey, hdrive, htarget⟩ := hready.2 k (hqueue ▸ List.mem_cons_self)
      have hfull : ¬tw.moving < tw.config.drive.concurrency := fun hlt => by
        simp [Tower.dispatchHead, hqueue, hrunning, hlt, hkey, hdrive, htarget] at h
      omega

theorem Tower.QueueReady.dispatchHead {tw tw' : Tower} (h : tw.QueueReady) (e : tw.dispatchHead = some tw') :
    tw'.QueueReady := by
  obtain ⟨k, rest, key, q, g, hqueue, -, -, -, -, -, rfl⟩ := Tower.dispatchHead_eq_some e
  obtain ⟨hnodup, hkeys⟩ := h
  rw [hqueue] at hnodup hkeys
  obtain ⟨hnot, hrest⟩ := List.nodup_cons.mp hnodup
  refine ⟨hrest, fun j hj => ?_⟩
  obtain ⟨key', q', g', hkey', hdrive', htarget'⟩ := hkeys j (List.mem_cons_of_mem _ hj)
  have hne : k ≠ j := fun e => hnot (e ▸ hj)
  exact ⟨key', q', g', by simpa [List.getElem?_modify, hne] using hkey', hdrive', htarget'⟩

/-- One turn of the dispatch check sends the head of the queue; the rest are sent from what it leaves. -/
theorem Tower.afterDispatch_dispatchHead {tw tw' : Tower} (hready : tw.QueueReady) (e : tw.dispatchHead = some tw') :
    tw'.afterDispatch = tw.afterDispatch := by
  obtain ⟨k, rest, key, q, g, hqueue, hrunning, hlt, hkey, hdrive, htarget, rfl⟩ := Tower.dispatchHead_eq_some e
  obtain ⟨hnodup, -⟩ := hready
  rw [hqueue] at hnodup
  obtain ⟨hnot, -⟩ := List.nodup_cons.mp hnodup
  set n := min rest.length (tw.config.drive.concurrency - (tw.moving + 1)) with hn
  have hslots : tw.slots = n + 1 := by
    rw [Tower.slots_of_running hrunning, hqueue, List.length_cons]
    omega
  set tw' := (({ tw with queue := rest, moving := tw.moving + 1 }.setDrive k
    (.moving q g.steps tw.config.drive.moveTimeout)).send (.move k g.steps) : Tower) with htw'
  have hslots' : tw'.slots = n := Tower.slots_of_running (tw := tw') hrunning
  have hsteps : ∀ j : Nat, tw'.keys[j]?.bind KeyRec.steps = tw.keys[j]?.bind KeyRec.steps := fun j => by
    simp only [htw', Tower.send_keys, Tower.setDrive_keys, List.getElem?_modify]
    split <;> cases tw.keys[j]? <;> rfl
  have hkeys : ∀ j : Nat, tw'.keys[j]? = tw.keys[j]?.map fun key =>
      if j = k then key.dispatched tw.config.drive.moveTimeout else key := fun j => by
    simp only [htw', Tower.send_keys, Tower.setDrive_keys, List.getElem?_modify]
    by_cases hj : k = j
    · subst hj
      simp [hkey, KeyRec.dispatched, hdrive, htarget]
    · simp [hj, Ne.symm hj]
  unfold Tower.afterDispatch
  simp only [hslots, hslots', hqueue, List.take_succ_cons, List.drop_succ_cons, hsteps]
  have hlate : tw'.keys.mapIdx (fun j key => if j ∈ rest.take n then key.dispatched tw.config.drive.moveTimeout else key) =
      tw.keys.mapIdx fun j key => if j ∈ k :: rest.take n then key.dispatched tw.config.drive.moveTimeout else key := by
    refine List.ext_getElem? fun j => ?_
    rw [List.getElem?_mapIdx, List.getElem?_mapIdx, hkeys, Option.map_map]
    by_cases hj : j = k
    · subst hj
      have : j ∉ rest.take n := fun h => hnot (List.mem_of_mem_take h)
      simp [this, Function.comp_def]
    · simp [hj, Function.comp_def]
  have hport : tw'.port.sendAll ((rest.take n).map fun j => .move j ((tw.keys[j]?.bind KeyRec.steps).getD 0)) =
      tw.port.sendAll ((k :: rest.take n).map fun j => .move j ((tw.keys[j]?.bind KeyRec.steps).getD 0)) := by
    simp [DrivePort.sendAll, htw', hkey, KeyRec.steps, htarget]
  have hmoving : tw'.moving + n = tw.moving + (n + 1) := by
    simp only [htw', Tower.send_moving, Tower.setDrive_moving]
    omega
  rw [← hlate, ← hport, ← hmoving]
  rfl

/-- The dispatch check sends the head of the queue as long as a motor slot is free (R127). -/
theorem Tower.dispatch_eq {tw : Tower} (h : tw.QueueReady) : tw.dispatch = tw.afterDispatch := by
  suffices hturns : ∀ n (u : Tower), u.QueueReady → u.queue.length ≤ n → Tower.dispatchTurns n u = u.afterDispatch from
    hturns _ tw h (Nat.le_refl _)
  intro n
  induction n with
  | zero =>
    intro u _ hn
    refine (Tower.afterDispatch_of_no_slots (tw := u) ?_).symm
    simp [Tower.slots, List.length_eq_zero_iff.mp (Nat.le_zero.mp hn)]
  | succ n ih =>
    intro u hu hn
    unfold Tower.dispatchTurns
    split
    · next u' e =>
      rw [← Tower.afterDispatch_dispatchHead hu e]
      refine ih u' (hu.dispatchHead e) ?_
      obtain ⟨k, rest, _, _, _, hqueue, -, -, -, -, -, rfl⟩ := Tower.dispatchHead_eq_some e
      rw [hqueue, List.length_cons] at hn
      exact Nat.le_of_succ_le_succ hn
    · next e => exact (Tower.afterDispatch_of_no_slots (Tower.slots_of_no_head hu e)).symm

/-- Settles O42. -/
theorem dispatchSendsHeads : Obligations.DispatchSendsHeads := by
  intro tw hsound
  have hdispatch := Tower.dispatch_eq hsound.ready
  have hslots : tw.moving ≤ tw.config.drive.concurrency → tw.moving + tw.slots ≤ tw.config.drive.concurrency := fun h => by
    unfold Tower.slots
    split <;> omega
  refine ⟨hdispatch, fun hrunning => ?_, fun hstopped => Tower.dispatch_of_not_running ?_, fun h => ?_⟩
  · have hrun : tw.running = true := by simpa [Tower.running] using hrunning
    have hn := Tower.slots_of_running hrun
    rw [hdispatch]
    simp only [Tower.afterDispatch, List.drop_eq_nil_iff]
    omega
  · rcases hstopped with h | h <;> simp [Tower.running, h]
  · rw [hdispatch]
    exact hslots h

/-! ### The SWEEP check and the drain check (R118, R120) -/

theorem Tower.sweepCheck_eq (tw : Tower) : tw.sweepCheck = tw.withSweep := by
  obtain ⟨config, run, next, state, keys, queue, moving, sweep, lastSweep, counters, port⟩ := tw
  cases sweep with
  | none => rfl
  | some v =>
    by_cases h : lastSweep = some v <;>
      simp [Tower.sweepCheck, Tower.withSweep, Tower.sweepMessage, h, DrivePort.sendAll, Tower.send]

theorem Tower.drainCheck_eq (tw : Tower) : tw.drainCheck = tw.afterDrain := by
  unfold Tower.drainCheck Tower.afterDrain
  rw [Tower.sweepCheck_eq]
  rfl

/-- The check that closes every move, written out. -/
theorem Tower.afterMove_eq {tw : Tower} (h : tw.QueueReady) : tw.afterMove = tw.afterDispatch.afterDrain := by
  rw [Tower.afterMove, Tower.dispatch_eq h, Tower.drainCheck_eq]

theorem Tower.sweepChange_eq (tw : Tower) :
    tw.sweepChange = if tw.state = .presetting ∨ tw.state = .printing then tw.withSweep else tw := by
  simp [Tower.sweepChange, Tower.running, Tower.sweepCheck_eq]


/-! ### Target changes (R126) -/

/-- A key that joins a sound queue with a target leaves it ready for dispatch. -/
theorem Tower.QueueReady.append {tw : Tower} (h : tw.QueueReady) {k q : Nat} {key : KeyRec} {g : Target} (hk : k ∉ tw.queue)
    (hlt : k < tw.keys.length) (hdrive : key.drive = .queued q) (htarget : key.target = some g) :
    ({ tw with keys := tw.keys.set k key, queue := tw.queue ++ [k] } : Tower).QueueReady := by
  obtain ⟨hnodup, hkeys⟩ := h
  refine ⟨List.nodup_append.mpr ⟨hnodup, by simp, fun a ha b hb => by
    rw [List.mem_singleton.mp hb]
    exact fun e => hk (e ▸ ha)⟩, fun j hj => ?_⟩
  rcases List.mem_append.mp hj with hj | hj
  · obtain ⟨key', q', g', hkey', hdrive', htarget'⟩ := hkeys j hj
    have hne : k ≠ j := fun e => hk (e ▸ hj)
    exact ⟨key', q', g', by rw [List.getElem?_set_ne hne, hkey'], hdrive', htarget'⟩
  · rw [List.mem_singleton.mp hj]
    exact ⟨key, q, g, by simp [hlt], hdrive, htarget⟩

theorem modify_eq_set {α : Type} {l : List α} {k : Nat} {a : α} (h : l[k]? = some a) (f : α → α) :
    l.modify k f = l.set k (f a) := by
  rw [List.modify_eq_set_getElem?, h]
  rfl

theorem Tower.updateKey_eq {tw : Tower} {k : Nat} {key : KeyRec} (h : tw.keys[k]? = some key) (f : KeyRec → KeyRec) :
    tw.updateKey k f = { tw with keys := tw.keys.set k (f key) } := by
  rw [Tower.updateKey, modify_eq_set h]

theorem Tower.isAway_of_idle {tw : Tower} {k q : Nat} {key : KeyRec} (h : tw.keys[k]? = some key) (hdrive : key.drive = .idle q) :
    tw.isAway k = true ↔ ∃ n, key.target.map Target.steps = some n ∧ n ≠ q := by
  cases htarget : key.target <;> simp [Tower.isAway, h, hdrive, htarget]

theorem Tower.enqueue_eq {tw : Tower} {k q : Nat} {key : KeyRec} (h : tw.keys[k]? = some key) (hdrive : key.drive = .idle q) :
    tw.enqueue k = { tw with keys := tw.keys.set k { key with drive := .queued q }, queue := tw.queue ++ [k] } := by
  rw [Tower.enqueue, Tower.updateKey_eq h, hdrive]
  rfl

theorem Tower.dequeue_eq_set {tw : Tower} {k q : Nat} {key : KeyRec} (h : tw.keys[k]? = some key)
    (hdrive : key.drive = .queued q) :
    tw.dequeue k = { tw with keys := tw.keys.set k { key with drive := .idle q }, queue := tw.queue.filter (· ≠ k) } := by
  have hfilter : tw.queue.filter (fun j => j != k) = tw.queue.filter fun j => decide (j ≠ k) :=
    List.filter_congr fun j _ => by simp [bne, beq_eq_decide]
  rw [Tower.dequeue, hfilter, Tower.updateKey_eq h, hdrive]
  rfl

/-- Settles O43, by the drive state of the key. -/
theorem targetAndSweepChangesAreTaken : Obligations.TargetAndSweepChangesAreTaken := by
  refine ⟨fun tw k key hkey => ⟨fun q n hdrive hn hne hstate => ?_, fun q hdrive hstays => ?_, fun q n hdrive hn hne => ?_,
    fun q hdrive hleaves => ?_, fun hstate => ?_⟩, Tower.drainCheck_eq, Tower.sweepCheck_eq, Tower.sweepChange_eq⟩
  · have haway := (Tower.isAway_of_idle hkey hdrive).mpr ⟨n, hn, hne⟩
    simp [Tower.targetChange, hkey, hdrive, Tower.seekTarget, hstate, haway, Tower.enqueue_eq hkey hdrive]
  · have hnot : (tw.state != .dark && tw.isAway k) = false := by
      rw [Bool.eq_false_iff, ne_eq, Bool.and_eq_true, Tower.isAway_of_idle hkey hdrive]
      rintro ⟨hstate, n, hn, hne⟩
      rcases hstays with h | h | h <;> simp_all
    simp [Tower.targetChange, hkey, hdrive, Tower.seekTarget, hnot]
  · simp [Tower.targetChange, hkey, hdrive, KeyRec.steps, hn, hne]
  · have hleft : tw.targetChange k = (tw.dequeue k).drainCheck := by
      rcases hleaves with h | h <;> simp [Tower.targetChange, hkey, hdrive, KeyRec.steps, h]
    rw [hleft, Tower.drainCheck_eq, Tower.dequeue_eq_set hkey hdrive]
  · cases hdrive : key.drive <;> simp [hdrive, Drive.state] at hstate <;> simp [Tower.targetChange, hkey, hdrive]

end Sys2Proof.Machine

/-! SUPPORT. Reports of the drive modules and the expiries of a key's timers, written out (R131 to R139). -/

namespace Sys2Proof.Machine

/-! ### A key that changes outside the queue -/

theorem Tower.QueueReady.set {tw : Tower} (h : tw.QueueReady) {k : Nat} (hk : k ∉ tw.queue) (key : KeyRec) :
    ({ tw with keys := tw.keys.set k key } : Tower).QueueReady := by
  refine ⟨h.1, fun j hj => ?_⟩
  obtain ⟨key', q, g, hkey', hrest⟩ := h.2 j hj
  have hne : k ≠ j := fun e => hk (e ▸ hj)
  exact ⟨key', q, g, by rw [List.getElem?_set_ne hne, hkey'], hrest⟩

theorem Tower.QueueSound.not_mem {tw : Tower} (h : tw.QueueSound) {k : Nat} {key : KeyRec} (hkey : tw.keys[k]? = some key)
    (hstate : key.drive.state ≠ .queued) : k ∉ tw.queue := fun hk => hstate (by
  simpa [Tower.isQueued, hkey] using (h.2.1 k).mp hk)

theorem Tower.setDrive_eq {tw : Tower} {k : Nat} {key : KeyRec} (h : tw.keys[k]? = some key) (d : Drive) :
    tw.setDrive k d = { tw with keys := tw.keys.set k { key with drive := d } } := Tower.updateKey_eq h _

theorem Tower.endMove_eq {tw : Tower} {k : Nat} {key : KeyRec} (h : tw.keys[k]? = some key) (d : Drive) :
    tw.endMove k d = { tw with keys := tw.keys.set k { key with drive := d }, moving := tw.moving - 1 } :=
  Tower.setDrive_eq (tw := { tw with moving := tw.moving - 1 }) h d

theorem getElem?_set_of_getElem? {α : Type} {l : List α} {k : Nat} {a : α} (h : l[k]? = some a) (b : α) :
    (l.set k b)[k]? = some b := by
  have hlt := (List.getElem?_eq_some_iff.mp h).1
  simp [hlt]

/-! ### Reports (R131 to R137) -/

theorem exec_done (t : TowerIx) (kb : Byte) (pos : BitVec 16) (s : State) :
    exec (.done t kb pos) s = .next ((s.huntDrive t).takeDone t kb.toNat pos.toNat) := rfl

theorem exec_pos (t : TowerIx) (kb : Byte) (pos : BitVec 16) (s : State) :
    exec (.pos t kb pos) s = .next ((s.huntDrive t).takePos t kb.toNat pos.toNat) := rfl

theorem exec_fault (t : TowerIx) (kb : Byte) (kind : ReportKind) (pos : BitVec 16) (s : State) :
    exec (.fault t kb kind pos) s = .next ((s.huntDrive t).takeFault t kb.toNat (reportedKind kind) pos.toNat) := rfl

theorem State.huntDrive_tower (s : State) (t : TowerIx) : (s.huntDrive t).tower t = (s.tower t).setFramer Framer.hunting :=
  State.tower_setTower_same ..

theorem State.huntDrive_setTower (s : State) (t : TowerIx) (tw : Tower) : (s.huntDrive t).setTower t tw = s.setTower t tw :=
  State.setTower_setTower ..

section Report

variable {s : State} {t : TowerIx} {k : Nat} {key : KeyRec}

/-- A report finds the key as it stood: the end of the frame touches the framer alone. -/
theorem State.huntDrive_key (h : (s.tower t).keys[k]? = some key) : ((s.huntDrive t).tower t).keys[k]? = some key := by
  rw [State.huntDrive_tower]
  exact h

theorem Tower.reported_setDrive {tw : Tower} (h : tw.keys[k]? = some key) (d : Drive) :
    (tw.setFramer Framer.hunting).setDrive k d = tw.reported k { key with drive := d } :=
  Tower.setDrive_eq (tw := tw.setFramer Framer.hunting) h d

theorem Tower.reported_endMove {tw : Tower} (h : tw.keys[k]? = some key) (d : Drive) :
    (tw.setFramer Framer.hunting).endMove k d = { tw.reported k { key with drive := d } with moving := tw.moving - 1 } :=
  Tower.endMove_eq (tw := tw.setFramer Framer.hunting) h d

theorem Tower.reported_settled {tw : Tower} (h : tw.keys[k]? = some key) (d : Drive) (w : Sheet) :
    ((tw.setFramer Framer.hunting).endMove k d).updateKey k (fun key => { key with settleUntil := w }) =
      { tw.reported k { key with drive := d, settleUntil := w } with moving := tw.moving - 1 } := by
  rw [Tower.reported_endMove h, Tower.updateKey_eq (getElem?_set_of_getElem? h _)]
  simp [Tower.reported]

theorem Tower.reported_ready {tw : Tower} (hsound : tw.QueueSound) (h : tw.keys[k]? = some key)
    (hstate : key.drive.state ≠ .queued) (key' : KeyRec) : (tw.reported k key').QueueReady :=
  hsound.ready.set (hsound.not_mem h hstate) key'

/-- A key that was not QUEUED and stands away from its target joins the queue, ready for dispatch. -/
theorem Tower.reported_append_ready {tw : Tower} (hsound : tw.QueueSound) (h : tw.keys[k]? = some key)
    (hstate : key.drive.state ≠ .queued) {key' : KeyRec} {x : Nat} {g : Target} (hdrive : key'.drive = .queued x)
    (htarget : key'.target = some g) : ({ tw.reported k key' with queue := tw.queue ++ [k] } : Tower).QueueReady :=
  hsound.ready.append (hsound.not_mem h hstate) (List.getElem?_eq_some_iff.mp h).1 hdrive htarget

/-- A QUEUED key that leaves the queue and takes another drive part. -/
theorem Tower.reported_leave_queue {tw : Tower} (h : tw.keys[k]? = some key) (hstate : key.drive.state = .queued) (d : Drive) :
    ((tw.setFramer Framer.hunting).dequeue k).setDrive k d =
      { tw.reported k { key with drive := d } with queue := tw.queue.filter (· ≠ k) } := by
  cases hdrive : key.drive <;> rw [hdrive] at hstate <;> try cases hstate
  next q =>
  rw [Tower.dequeue_eq_set (tw := tw.setFramer Framer.hunting) h hdrive, Tower.setDrive_eq (getElem?_set_of_getElem? h _)]
  simp [Tower.reported]
  rfl

theorem Tower.isAway_idle {tw : Tower} {x : Nat} (h : tw.keys[k]? = some key) (hdrive : key.drive = .idle x) :
    tw.isAway k = true ↔ ∃ g, key.target = some g ∧ g.steps ≠ x := by
  simp [Tower.isAway_of_idle h hdrive]

end Report

/-! ### Reports of a position (R134, R135, R137) -/

section Position

variable {s : State} {t : TowerIx} {kb : Byte} {pos : BitVec 16} {key : KeyRec}

theorem Tower.standsAt_of_away {tw : Tower} {k x : Nat} {g : Target} (hsound : tw.QueueSound) (h : tw.keys[k]? = some key)
    (hstate : key.drive.state ≠ .queued) (hrunning : tw.state ≠ .dark) (htarget : key.target = some g) (hne : g.steps ≠ x) :
    (tw.setFramer Framer.hunting).standsAt k x =
      ({ tw.reported k { key with drive := .queued x } with queue := tw.queue ++ [k] } : Tower).afterDispatch := by
  have hidle : (tw.reported k { key with drive := .idle x }).keys[k]? = some { key with drive := .idle x } :=
    getElem?_set_of_getElem? h _
  have hjoins : ((tw.reported k { key with drive := .idle x }).state != .dark &&
      (tw.reported k { key with drive := .idle x }).isAway k) = true := by
    rw [Bool.and_eq_true, Tower.isAway_idle hidle rfl, bne_iff_ne]
    exact ⟨hrunning, g, htarget, hne⟩
  have hqueued : (tw.reported k { key with drive := .idle x }).enqueue k =
      { tw.reported k { key with drive := .queued x } with queue := tw.queue ++ [k] } := by
    rw [Tower.enqueue_eq hidle rfl]
    simp [Tower.reported]
  rw [Tower.standsAt, Tower.reported_setDrive h, Tower.seekTarget, hjoins, if_pos rfl, hqueued, Tower.dispatch_eq]
  exact Tower.reported_append_ready hsound h hstate rfl htarget

theorem Tower.standsAt_of_stays {tw : Tower} {k x : Nat} (h : tw.keys[k]? = some key)
    (hstays : tw.state = .dark ∨ ¬∃ g, key.target = some g ∧ g.steps ≠ x) :
    (tw.setFramer Framer.hunting).standsAt k x = tw.reported k { key with drive := .idle x } := by
  have hidle : (tw.reported k { key with drive := .idle x }).keys[k]? = some { key with drive := .idle x } :=
    getElem?_set_of_getElem? h _
  have hnot : ((tw.reported k { key with drive := .idle x }).state != .dark &&
      (tw.reported k { key with drive := .idle x }).isAway k) = false := by
    rw [Bool.eq_false_iff, ne_eq, Bool.and_eq_true, Tower.isAway_idle hidle rfl, bne_iff_ne]
    exact fun hboth => hstays.elim hboth.1 fun hno => hno hboth.2
  rw [Tower.standsAt, Tower.reported_setDrive h, Tower.seekTarget, hnot, if_neg Bool.false_ne_true]

theorem Tower.queuedAt_of_target {tw : Tower} {k x : Nat} (h : tw.keys[k]? = some key)
    (hsteps : key.target.map Target.steps = some x) : (tw.setFramer Framer.hunting).queuedAt k x =
      ({ tw.reported k { key with drive := .idle x } with queue := tw.queue.filter (· ≠ k) } : Tower).afterDrain := by
  have hqueued : (tw.reported k { key with drive := .queued x }).dequeue k =
      { tw.reported k { key with drive := .idle x } with queue := tw.queue.filter (· ≠ k) } := by
    rw [Tower.dequeue_eq_set (q := x) (key := { key with drive := .queued x }) (getElem?_set_of_getElem? h _) rfl]
    simp [Tower.reported]
  rw [Tower.queuedAt, Tower.setFramer_keys, h]
  simp only [KeyRec.steps, hsteps, if_true]
  rw [Tower.reported_setDrive h, hqueued, Tower.drainCheck_eq]

theorem Tower.queuedAt_of_away {tw : Tower} {k x : Nat} (h : tw.keys[k]? = some key)
    (hsteps : key.target.map Target.steps ≠ some x) :
    (tw.setFramer Framer.hunting).queuedAt k x = tw.reported k { key with drive := .queued x } := by
  rw [Tower.queuedAt, Tower.setFramer_keys, h]
  simp only [KeyRec.steps, hsteps, if_false]
  rw [Tower.reported_setDrive h]

/-- A report of a key that the tower does not have is passed over (R2). -/
theorem exec_report_of_absent (hkey : (s.tower t).keys[kb.toNat]? = none) :
    exec (.done t kb pos) s = .next (s.huntDrive t) ∧ exec (.pos t kb pos) s = .next (s.huntDrive t) ∧
      ∀ kind : ReportKind, exec (.fault t kb kind pos) s = .next (s.huntDrive t) := by
  have hhunt : ((s.huntDrive t).tower t).keys[kb.toNat]? = none := by
    rw [State.huntDrive_tower]
    exact hkey
  simp [exec_done, exec_pos, exec_fault, State.takeDone, State.takePos, State.takeFault, hhunt]

/-- A POS, and a DONE that ends no move, of an UNKNOWN or IDLE key. -/
theorem exec_position_of_standing (hkey : (s.tower t).keys[kb.toNat]? = some key)
    (hstate : key.drive.state = .unknown ∨ key.drive.state = .idle) {tw' : Tower}
    (hstands : ((s.tower t).setFramer Framer.hunting).standsAt kb.toNat pos.toNat = tw') :
    exec (.done t kb pos) s = .next (s.setTower t tw') ∧ exec (.pos t kb pos) s = .next (s.setTower t tw') := by
  have hhunt := State.huntDrive_key hkey
  rw [exec_done, exec_pos, State.takeDone, State.takePos, hhunt, ← hstands]
  cases hdrive : key.drive <;> simp [hdrive, Drive.state] at hstate <;>
    simp only [hdrive, State.huntDrive_tower, State.huntDrive_setTower, and_self]

/-- A POS, and a DONE that ends no move, of a QUEUED key. -/
theorem exec_position_of_queued {q : Nat} (hkey : (s.tower t).keys[kb.toNat]? = some key) (hdrive : key.drive = .queued q)
    {tw' : Tower} (hqueued : ((s.tower t).setFramer Framer.hunting).queuedAt kb.toNat pos.toNat = tw') :
    exec (.done t kb pos) s = .next (s.setTower t tw') ∧ exec (.pos t kb pos) s = .next (s.setTower t tw') := by
  rw [exec_done, exec_pos, State.takeDone, State.takePos, State.huntDrive_key hkey, ← hqueued]
  simp only [hdrive, State.huntDrive_tower, State.huntDrive_setTower, and_self]

theorem exec_pos_of_moving {q target timeout : Nat} (hkey : (s.tower t).keys[kb.toNat]? = some key)
    (hdrive : key.drive = .moving q target timeout) : exec (.pos t kb pos) s = .next
      (s.setTower t ((s.tower t).reported kb.toNat { key with drive := .moving pos.toNat target timeout })) := by
  rw [exec_pos, State.takePos, State.huntDrive_key hkey, ← Tower.reported_setDrive hkey]
  simp only [hdrive, State.huntDrive_tower, State.huntDrive_setTower]

theorem exec_pos_of_faulted {kind : KeyFault} {q : Option Nat} (hkey : (s.tower t).keys[kb.toNat]? = some key)
    (hdrive : key.drive = .faulted kind q) : exec (.pos t kb pos) s = .next
      (s.setTower t ((s.tower t).reported kb.toNat { key with drive := .faulted kind (some pos.toNat) })) := by
  rw [exec_pos, State.takePos, State.huntDrive_key hkey, ← Tower.reported_setDrive hkey]
  simp only [hdrive, State.huntDrive_tower, State.huntDrive_setTower]

theorem exec_done_of_faulted {kind : KeyFault} {q : Option Nat} (hkey : (s.tower t).keys[kb.toNat]? = some key)
    (hdrive : key.drive = .faulted kind q) : exec (.done t kb pos) s =
      let stays := s.setTower t ((s.tower t).reported kb.toNat { key with drive := .faulted kind (some pos.toNat) })
      .next (if kind = .timeout then stays.logFault .late (.key t kb.toNat) else stays) := by
  rw [exec_done, State.takeDone, State.huntDrive_key hkey, ← Tower.reported_setDrive hkey]
  simp only [hdrive, State.huntDrive_tower, State.huntDrive_setTower]

end Position

theorem stepDistance_eq (a b : Nat) : stepDistance a b = a - b + (b - a) := by
  unfold stepDistance
  split <;> omega

/-- Settles O48. -/
theorem doneEndsMove : Obligations.DoneEndsMove := by
  intro t kb pos key q target timeout s k x tw stopped far again hkey hdrive hsound
  have hstate : key.drive.state ≠ .queued := by simp [hdrive, Drive.state]
  have hstopped : ∀ d : Drive, (stopped d).QueueReady := fun d => Tower.reported_ready hsound hkey hstate _
  have hdone : (s.huntDrive t).takeDone t k x = (s.huntDrive t).moveDone t k x target := by
    simp [State.takeDone, State.huntDrive_key hkey, hdrive]
  have hended : ∀ d : Drive, ((tw.setFramer Framer.hunting).endMove k d).updateKey k (fun key =>
      { key with settleUntil := sheetPlus s.sheets tw.config.drive.settleSheets }) = stopped d :=
    fun d => Tower.reported_settled hkey d _
  have hsheets : (s.huntDrive t).sheets = s.sheets := rfl
  have hfar : tw.config.drive.tolerance < stepDistance x target ↔ far := by rw [stepDistance_eq]
  have hidle : (stopped (.idle x)).keys[k]? = some { key with
      drive := .idle x, settleUntil := s.sheets + BitVec.ofNat 32 tw.config.drive.settleSheets } :=
    getElem?_set_of_getElem? hkey _
  have htaken : exec (.done t kb pos) s = .next (if tw.config.drive.tolerance < stepDistance x target then
      (s.setTower t (stopped (.faulted .short (some x))).afterMove).logFault .short (.key t k)
      else s.setTower t ((stopped (.idle x)).requeue k).afterMove) := by
    rw [exec_done, hdone, State.moveDone, State.huntDrive_tower]
    simp only [State.huntDrive_setTower, Tower.setFramer_config, hsheets]
    rw [hended, hended]
  refine ⟨fun h => ?_, fun h hnot => ?_, fun h hagain => ?_⟩ <;> rw [htaken]
  · rw [if_pos (hfar.mpr h), Tower.afterMove_eq (hstopped _)]
  · have hstays : ((stopped (.idle x)).state != .dark && (stopped (.idle x)).isAway k) = false := by
      rw [Bool.eq_false_iff, ne_eq, Bool.and_eq_true, Tower.isAway_idle hidle rfl, bne_iff_ne]
      exact hnot
    rw [if_neg (hfar.not.mpr h), Tower.requeue, hstays, if_neg Bool.false_ne_true, Tower.afterMove_eq (hstopped _)]
  · obtain ⟨hrunning, g, htarget, hne⟩ := hagain
    have hjoins : ((stopped (.idle x)).state != .dark && (stopped (.idle x)).isAway k) = true := by
      rw [Bool.and_eq_true, Tower.isAway_idle hidle rfl, bne_iff_ne]
      exact ⟨hrunning, g, htarget, hne⟩
    have hqueued : (stopped (.idle x)).enqueue k = { stopped (.queued x) with queue := tw.queue ++ [k] } := by
      rw [Tower.enqueue_eq hidle rfl]
      simp [stopped, Tower.reported]
    rw [if_neg (hfar.not.mpr h), Tower.requeue, hjoins, if_pos rfl, hqueued, Tower.afterMove_eq]
    exact Tower.reported_append_ready hsound hkey hstate rfl htarget

/-- Settles O49, by the drive state of the key. -/
theorem faultReportStopsKey : Obligations.FaultReportStopsKey := by
  intro t kb kind pos key s k tw keyFault fault stopped left hkey hsound
  have hkind : reportedKind kind = keyFault ∧ keyFault.kind = fault := by cases kind <;> exact ⟨rfl, rfl⟩
  obtain ⟨hkf, hfault⟩ := hkind
  have hhunt := State.huntDrive_key hkey
  refine ⟨fun hstate => ?_, fun hstate => ?_, fun hstate => ?_⟩
  · have htaken : exec (.fault t kb kind pos) s = .next ((s.setTower t ((tw.setFramer Framer.hunting).endMove k
        (.faulted keyFault (some pos.toNat))).afterMove).logFault fault (.key t k)) := by
      cases hdrive : key.drive <;> simp [hdrive, Drive.state] at hstate
      rw [exec_fault, State.takeFault, hhunt]
      simp only [hdrive, hfault, hkf, State.huntDrive_tower, State.huntDrive_setTower]
      rfl
    have hready : ({ stopped with moving := tw.moving - 1 } : Tower).QueueReady :=
      Tower.reported_ready hsound hkey (by simp [hstate]) _
    show exec _ _ = _
    rw [htaken, Tower.reported_endMove hkey, Tower.afterMove_eq hready]
  · have htaken : exec (.fault t kb kind pos) s = .next ((s.setTower t (((tw.setFramer Framer.hunting).dequeue k).setDrive k
        (.faulted keyFault (some pos.toNat))).drainCheck).logFault fault (.key t k)) := by
      cases hdrive : key.drive <;> simp [hdrive, Drive.state] at hstate
      rw [exec_fault, State.takeFault, hhunt]
      simp only [hdrive, hfault, hkf, State.huntDrive_tower, State.huntDrive_setTower]
      rfl
    show exec _ _ = _
    rw [htaken, Tower.reported_leave_queue hkey hstate, Tower.drainCheck_eq]
  · have hset : ∀ d : Drive, (tw.setFramer Framer.hunting).setDrive k d = tw.reported k { key with drive := d } :=
      Tower.reported_setDrive hkey
    show exec _ _ = _
    rw [exec_fault, State.takeFault, hhunt]
    cases hdrive : key.drive <;> simp [hdrive, Drive.state] at hstate <;>
      simp only [hdrive, hfault, hkf, State.huntDrive_tower, State.huntDrive_setTower] <;> rw [hset]

/-- Settles O50, by the drive state of the key. -/
theorem positionReportsAreTaken : Obligations.PositionReportsAreTaken := by
  intro t kb pos s k x tw done reported
  refine ⟨fun hlength hk => ?_, fun key hkey hsound => ⟨fun hstate => ⟨fun hrunning haway => ?_, fun hstays => ?_⟩,
    fun hstate => ?_, fun q target timeout hdrive => exec_pos_of_moving hkey hdrive, fun kind q hdrive => ?_⟩⟩
  · exact exec_report_of_absent (List.getElem?_eq_none (hlength.trans_le hk))
  · obtain ⟨g, htarget, hne⟩ := haway
    refine exec_position_of_standing hkey hstate (Tower.standsAt_of_away hsound hkey ?_ hrunning htarget hne)
    rcases hstate with h | h <;> simp [h]
  · exact exec_position_of_standing hkey hstate (Tower.standsAt_of_stays hkey hstays)
  · cases hdrive : key.drive <;> rw [hdrive] at hstate <;> try cases hstate
    exact ⟨fun hsteps => exec_position_of_queued hkey hdrive (Tower.queuedAt_of_target hkey hsteps),
      fun hsteps => exec_position_of_queued hkey hdrive (Tower.queuedAt_of_away hkey hsteps)⟩
  · refine ⟨exec_pos_of_faulted hkey hdrive, fun hkind => ?_, fun hkind => ?_⟩ <;>
      refine (exec_done_of_faulted hkey hdrive).trans ?_ <;> simp only [hkind, if_true, if_false] <;> rfl

/-! ### Timers (R133, R139) -/

theorem exec_moveTimerExpiry (t : TowerIx) (k : Nat) (s : State) : exec (.moveTimerExpiry t k) s = execMoveTimerExpiry t k s := rfl

theorem exec_askTimerExpiry (t : TowerIx) (k : Nat) (s : State) : exec (.askTimerExpiry t k) s = execAskTimerExpiry t k s := rfl

/-- Settles O51. -/
theorem timersExpire : Obligations.TimersExpire := by
  intro t k s tw gone
  refine ⟨fun key q target timeout hkey hdrive hsound => ?_, fun key hkey hdrive => ?_, fun hnone => ?_, fun hnone => ?_⟩
  · have hready : ({ gone key (.faulted .timeout (some q)) with moving := tw.moving - 1 } : Tower).QueueReady :=
      hsound.ready.set (hsound.not_mem hkey (by simp [hdrive, Drive.state])) _
    have hended : tw.endMove k (.faulted .timeout (some q)) =
        { gone key (.faulted .timeout (some q)) with moving := tw.moving - 1 } := Tower.endMove_eq hkey _
    rw [← Tower.afterMove_eq hready, ← hended]
    simp [exec_moveTimerExpiry, execMoveTimerExpiry, hkey, hdrive, tw]
  · have hgone : tw.setDrive k (.faulted .noAnswer none) = gone key (.faulted .noAnswer none) := Tower.setDrive_eq hkey _
    rw [← hgone]
    simp [exec_askTimerExpiry, execAskTimerExpiry, hkey, hdrive, tw]
  · rw [exec_moveTimerExpiry, execMoveTimerExpiry]
    cases hkey : (s.tower t).keys[k]? with
    | none => rfl
    | some key =>
      have hstate := hnone key hkey
      cases hdrive : key.drive <;> simp_all [Drive.state]
  · rw [exec_askTimerExpiry, execAskTimerExpiry]
    cases hkey : (s.tower t).keys[k]? with
    | none => rfl
    | some key =>
      have hstate := hnone key hkey
      cases hdrive : key.drive <;> simp_all [Drive.state]

end Sys2Proof.Machine

/-! SUPPORT. HOLD, RELEASE, ENGAGE and CLEAR KEY FAULT written out (R107 to R117, R140). -/

namespace Sys2Proof.Machine

/-! ### Requests that name a tower alone (R106) -/

section TowerOnly

variable {fn : MasterFn} {b : Byte} {t : TowerIx} {s : State} {rule : TowerIx → Taken}

theorem exec_towerOnly_of_range (hfree : s.busy .console = false) (hearly : s.earlyRefusal .console fn [b] = none)
    (htake : takeFunction fn .console [b] s = takeTowerOnly [b] rule) (hb : 12 ≤ b.toNat) :
    exec (fn.command .console [b]) s = .next (s.sendReply .console [replyByte fn.code, 0x07#8]) :=
  exec_of_error hfree hearly (htake.trans (takeTowerOnly_of_range hb rule))

theorem exec_towerOnly_of_ok {s' : State} (hfree : s.busy .console = false) (hearly : s.earlyRefusal .console fn [b] = none)
    (htake : takeFunction fn .console [b] s = takeTowerOnly [b] rule) (hb : b.toNat = t.val) (hrule : rule t = .ok (s', .ok, [])) :
    exec (fn.command .console [b]) s = .next (s'.sendReply .console [replyByte fn.code, 0x00#8]) :=
  exec_of_ok hfree hearly (htake.trans ((takeTowerOnly_of_tower hb rule).trans hrule))

theorem exec_towerOnly_of_error {r : Result} (hfree : s.busy .console = false) (hearly : s.earlyRefusal .console fn [b] = none)
    (htake : takeFunction fn .console [b] s = takeTowerOnly [b] rule) (hb : b.toNat = t.val) (hrule : rule t = .error r) :
    exec (fn.command .console [b]) s = .next (s.sendReply .console [replyByte fn.code, r.code]) :=
  exec_of_error hfree hearly (htake.trans ((takeTowerOnly_of_tower hb rule).trans hrule))

end TowerOnly

theorem State.earlyRefusal_hold (s : State) (b : Byte) : s.earlyRefusal .console .hold [b] = none :=
  State.earlyRefusal_of_no_member (Nat.zero_le _) rfl rfl

theorem State.earlyRefusal_release (s : State) (b : Byte) : s.earlyRefusal .console .release [b] = none :=
  State.earlyRefusal_of_no_member (Nat.zero_le _) rfl rfl

theorem State.earlyRefusal_engage (s : State) (b : Byte) : s.earlyRefusal .console .engage [b] = none :=
  State.earlyRefusal_of_no_member (Nat.zero_le _) rfl rfl

/-! ### HOLD and RELEASE (R115 to R117) -/

theorem Tower.release_eq {tw : Tower} (h : tw.QueueReady) : tw.release =
    ({ tw.withSweep with state := if tw.queue ≠ [] ∨ 0 < tw.moving then .presetting else .printing } : Tower).afterDispatch := by
  have hwork : (!tw.queue.isEmpty || decide (0 < tw.moving)) = true ↔ tw.queue ≠ [] ∨ 0 < tw.moving := by
    cases tw.queue <;> simp
  have hready : ({ tw.withSweep with
      state := if tw.queue ≠ [] ∨ 0 < tw.moving then .presetting else .printing } : Tower).QueueReady := h
  rw [← Tower.dispatch_eq hready, Tower.release, Tower.sweepCheck_eq]
  simp only [hwork]
  rfl

/-- Settles O47, by the tower state. -/
theorem holdAndRelease : Obligations.HoldAndRelease := by
  refine ⟨fun b s hfree hb => ⟨exec_towerOnly_of_range (fn := .hold) hfree (s.earlyRefusal_hold b) rfl hb,
    exec_towerOnly_of_range (fn := .release) hfree (s.earlyRefusal_release b) rfl hb⟩, fun t b s hfree hb => ?_⟩
  have hheld := fun {s' : State} => exec_towerOnly_of_ok (s' := s') (fn := .hold) hfree (s.earlyRefusal_hold b) rfl hb
  have hreleased := fun {s' : State} => exec_towerOnly_of_ok (s' := s') (fn := .release) hfree (s.earlyRefusal_release b) rfl hb
  have hrefused := fun {r : Result} => exec_towerOnly_of_error (r := r) (fn := .release) hfree (s.earlyRefusal_release b) rfl hb
  refine ⟨fun hs => ?_, fun hs => hheld ?_, fun hs => hheld ?_, fun hs => hrefused (r := .state) ?_, fun hs => hreleased ?_,
    fun hs hrun => hrefused (r := .incomplete) ?_, fun hs hrun hsound => ?_⟩
  · exact exec_towerOnly_of_error (fn := .hold) (r := .state) hfree (s.earlyRefusal_hold b) rfl hb (by simp [hs])
  · simp [hs]
  · rcases hs with hs | hs <;> simp [hs]
  · simp [hs]
  · rcases hs with hs | hs <;> simp [hs]
  · simp [hs, hrun]
  · refine (hreleased (s' := s.setTower t (s.tower t).release) (by simp [hs, hrun])).trans ?_
    rw [Tower.release_eq hsound.ready]
    rfl

/-! ### ENGAGE (R107, R108) -/

theorem mapIdx_map {α β γ : Type} (f : α → β) (g : Nat → β → γ) (l : List α) :
    (l.map f).mapIdx g = l.mapIdx fun i a => g i (f a) :=
  List.ext_getElem? fun i => by simp only [List.getElem?_mapIdx, List.getElem?_map, Option.map_map, Function.comp_def]

theorem Tower.isAway_enqueue_of_ne {tw : Tower} {j k : Nat} (h : j ≠ k) : (tw.enqueue k).isAway j = tw.isAway j := by
  simp [Tower.isAway, Tower.enqueue, Ne.symm h]

/-- The keys of a list that stand IDLE away from their targets join the queue together, in the order of the list (R108). -/
theorem Tower.enqueueAway_eq {ks : List Nat} (hnodup : ks.Nodup) (tw : Tower) : tw.enqueueAway ks = { tw with
    keys := tw.keys.mapIdx fun k (key : KeyRec) =>
      { key with drive := if k ∈ ks.filter tw.isAway then key.drive.toQueued else key.drive }
    queue := tw.queue ++ ks.filter tw.isAway } := by
  induction ks generalizing tw with
  | nil =>
    have hkeys : tw.keys.mapIdx (fun _ (key : KeyRec) => { key with drive := key.drive }) = tw.keys := List.ext_getElem? fun i => by
      rw [List.getElem?_mapIdx, Option.map_id']
    simp [Tower.enqueueAway, hkeys]
  | cons k ks ih =>
    obtain ⟨hnot, hrest⟩ := List.nodup_cons.mp hnodup
    have hstep : tw.enqueueAway (k :: ks) = (if tw.isAway k then tw.enqueue k else tw).enqueueAway ks := rfl
    rw [hstep, ih hrest]
    cases haway : tw.isAway k with
    | false => simp [haway]
    | true =>
      have hfilter : ks.filter (tw.enqueue k).isAway = ks.filter tw.isAway :=
        List.filter_congr fun j hj => Tower.isAway_enqueue_of_ne fun e => hnot (e ▸ hj)
      have hkeys : (tw.enqueue k).keys.mapIdx (fun j (key : KeyRec) =>
          { key with drive := if j ∈ ks.filter tw.isAway then key.drive.toQueued else key.drive }) =
          tw.keys.mapIdx fun j (key : KeyRec) =>
          { key with drive := if j ∈ k :: ks.filter tw.isAway then key.drive.toQueued else key.drive } := by
        refine List.ext_getElem? fun j => ?_
        simp only [List.getElem?_mapIdx, Tower.enqueue, Tower.updateKey, List.getElem?_modify]
        by_cases hj : k = j
        · subst hj
          simp [hnot, Function.comp_def]
        · simp [hj, Ne.symm hj]
      simp only [if_true, hfilter, List.filter_cons_of_pos haway, hkeys]
      simp [Tower.enqueue]

/-- The tower that ENGAGE leaves before its dispatch: PRESETTING, its SWEEP made, its keys away from their targets queued (R108). -/
def Tower.presetting (tw : Tower) (sheets : Sheet) : Tower :=
  let away := (List.range tw.z).filter tw.isAway
  { tw.withSweep with
    state := .presetting
    keys := tw.keys.mapIdx fun k (key : KeyRec) =>
      { key with
        drive := if k ∈ away then key.drive.toQueued else key.drive
        settleUntil := sheets + BitVec.ofNat 32 tw.config.drive.settleSheets }
    queue := away
    counters := LoopCounters.zero }

theorem Tower.presetting_ready (tw : Tower) (sheets : Sheet) : (tw.presetting sheets).QueueReady := by
  refine ⟨List.nodup_range.filter _, fun k hk => ?_⟩
  have haway : tw.isAway k = true := List.of_mem_filter hk
  cases hkey : tw.keys[k]? with
  | none => simp [Tower.isAway, hkey] at haway
  | some key =>
    cases hdrive : key.drive <;> cases htarget : key.target <;> simp [Tower.isAway, hkey, hdrive, htarget] at haway
    next q g =>
    refine ⟨{ key with
      drive := .queued q, settleUntil := sheets + BitVec.ofNat 32 tw.config.drive.settleSheets }, q, g, ?_, rfl, htarget⟩
    have hmem : k ∈ (List.range tw.z).filter tw.isAway := hk
    simp only [Tower.presetting, List.getElem?_mapIdx, hkey, Option.map_some, if_pos hmem, hdrive, Drive.toQueued]

theorem Tower.engage_eq {tw : Tower} (hqueue : tw.queue = []) (sheets : Sheet) :
    tw.engage sheets = (tw.presetting sheets).afterDispatch.afterDrain := by
  have hopened : (({ tw with state := .presetting, counters := LoopCounters.zero } : Tower).settleAll
      (tw.windowEnd sheets)).sweepCheck.enqueueAway (List.range tw.z) = tw.presetting sheets := by
    rw [Tower.sweepCheck_eq, Tower.enqueueAway_eq List.nodup_range]
    have haway : (List.range tw.z).filter ((({ tw with state := .presetting, counters := LoopCounters.zero } : Tower).settleAll
        (tw.windowEnd sheets)).withSweep).isAway = (List.range tw.z).filter tw.isAway := List.filter_congr fun k _ => by
      simp only [Tower.isAway, Tower.withSweep, Tower.settleAll, List.getElem?_map]
      cases tw.keys[k]? <;> rfl
    rw [haway]
    simp only [Tower.presetting, Tower.withSweep, Tower.settleAll, hqueue, List.nil_append, mapIdx_map]
    rfl
  rw [← Tower.afterMove_eq (tw.presetting_ready sheets), ← hopened]
  rw [Tower.engage, Tower.afterMove, Tower.sweepCheck_eq]
  rfl

theorem Tower.hasUnknown_iff (tw : Tower) : tw.hasUnknown = true ↔ ∃ key ∈ tw.keys, key.drive = .unknown := by
  have hstate : ∀ d : Drive, d.state = .unknown ↔ d = .unknown := fun d => by cases d <;> simp [Drive.state]
  simp [Tower.hasUnknown, hstate]

/-- Settles O44. -/
theorem engagePresetsTower : Obligations.EngagePresetsTower := by
  refine ⟨fun b s hfree hb => exec_towerOnly_of_range (fn := .engage) hfree (s.earlyRefusal_engage b) rfl hb,
    fun t b s hfree hb => ?_⟩
  have hengaged := fun {s' : State} => exec_towerOnly_of_ok (s' := s') (fn := .engage) hfree (s.earlyRefusal_engage b) rfl hb
  have hrefused := fun {r : Result} => exec_towerOnly_of_error (r := r) (fn := .engage) hfree (s.earlyRefusal_engage b) rfl hb
  refine ⟨fun hs => hengaged ?_, fun hs hrun => hrefused (r := .incomplete) ?_, fun hs hrun hunknown => hrefused (r := .notReady) ?_,
    fun hs hrun hunknown hlength hsound => ?_⟩
  · simp [hs]
  · simp [hs, hrun]
  · simp [hs, hrun, (Tower.hasUnknown_iff _).mpr hunknown]
  · have hknown : (s.tower t).hasUnknown = false := Bool.eq_false_iff.mpr fun h => hunknown ((Tower.hasUnknown_iff _).mp h)
    refine (hengaged (s' := s.setTower t ((s.tower t).engage s.sheets)) (by simp [hs, hrun, hknown])).trans ?_
    rw [Tower.engage_eq (hsound.2.2.1 hs)]
    rfl

/-! ### CLEAR KEY FAULT (R140) -/

/-- Keys surveyed together are UNKNOWN and asked in the order given (R138). -/
theorem Tower.surveyAll_eq (ks : List Nat) (tw : Tower) : tw.surveyAll ks = { tw with
    keys := tw.keys.mapIdx fun k (key : KeyRec) => if k ∈ ks then { key with drive := Drive.unknown } else key
    port := tw.port.sendAll (ks.map .ask) } := by
  induction ks generalizing tw with
  | nil =>
    have hkeys : tw.keys.mapIdx (fun _ (key : KeyRec) => key) = tw.keys := List.ext_getElem? fun i => by
      rw [List.getElem?_mapIdx, Option.map_id']
    simp [Tower.surveyAll, hkeys, DrivePort.sendAll]
  | cons k ks ih =>
    have hstep : tw.surveyAll (k :: ks) = (tw.survey k).surveyAll ks := rfl
    have hkeys : (tw.survey k).keys.mapIdx (fun j (key : KeyRec) => if j ∈ ks then { key with drive := Drive.unknown } else key) =
        tw.keys.mapIdx fun j (key : KeyRec) => if j ∈ k :: ks then { key with drive := Drive.unknown } else key := by
      refine List.ext_getElem? fun j => ?_
      simp only [List.getElem?_mapIdx, Tower.survey, Tower.send_keys, Tower.setDrive_keys, List.getElem?_modify]
      by_cases hj : k = j
      · subst hj
        by_cases hk : k ∈ ks <;> simp [hk, Function.comp_def]
      · simp [hj, Ne.symm hj]
    rw [hstep, ih, hkeys]
    rfl

theorem State.earlyRefusal_clearKeyFault (s : State) (b k : Byte) : s.earlyRefusal .console .clearKeyFault [b, k] = none :=
  State.earlyRefusal_of_no_member (Nat.zero_le _) rfl rfl

/-- One number of a range that a test picks. -/
theorem filter_range_eq (p : Nat → Bool) {a z : Nat} (h : a < z) :
    (List.range z).filter (fun k => decide (k = a) && p k) = [a].filter p := by
  have hone : (List.range z).filter (fun k => decide (k = a)) = [a] := by
    rw [List.filter_eq, List.count_eq_one_of_mem List.nodup_range (List.mem_range.mpr h)]
    rfl
  rw [← hone, List.filter_filter]
  exact List.filter_congr fun k _ => Bool.and_comm _ _

/-- Settles O52. -/
theorem clearKeyFaultSurveys : Obligations.ClearKeyFaultSurveys := by
  refine ⟨?_, fun b kb s hfree hbad => ?_⟩
  · intro t b kb s hfree hb hz tw hkb named surveyed
    have hfaulted : ∀ k, tw.isFaulted k = ((tw.keys[k]?.map fun key => key.drive.state) == some DriveState.faulted) := fun k => by
      cases h : tw.keys[k]? <;> simp [Tower.isFaulted, h]
    obtain ⟨ks, hks, hsurveyed⟩ : ∃ ks, tw.namedKeys kb = some ks ∧ ks.filter tw.isFaulted = surveyed := by
      by_cases hall : kb = 0xFF#8
      · refine ⟨tw.allKeys, if_pos hall, List.filter_congr fun k _ => ?_⟩
        simp [named, hall, hfaulted]
      · have hlt := hkb.resolve_right hall
        refine ⟨[kb.toNat], by rw [Tower.namedKeys, if_neg hall, if_pos hlt], ?_⟩
        rw [← filter_range_eq _ hlt]
        exact List.filter_congr fun k _ => by simp [named, hall, hfaulted]
    have htake : takeClearKeyFault .console [b, kb] s =
        .ok (s.setTower t (tw.surveyAll surveyed), .ok, [byteOf surveyed.length]) := by
      simp only [takeClearKeyFault, readTower_of_toNat hb]
      rw [hks, ← hsurveyed]
    refine (exec_of_ok (fn := .clearKeyFault) hfree (s.earlyRefusal_clearKeyFault b kb) htake).trans ?_
    rw [Tower.surveyAll_eq]
    rfl
  · refine exec_of_error (fn := .clearKeyFault) (r := .range) hfree (s.earlyRefusal_clearKeyFault b kb) ?_
    simp only [takeFunction, takeClearKeyFault]
    rcases hbad with hb | ⟨t, hb, hz, hne⟩
    · rw [readTower_none hb]
    · rw [readTower_of_toNat hb]
      simp only [Tower.namedKeys, if_neg hne, if_neg (Nat.not_lt.mpr hz)]

end Sys2Proof.Machine

/-! SUPPORT. A refresh that sends nothing, written out: every key record it writes, the keys that leave the move queue and those
that join it (R57, R126). -/

namespace Sys2Proof.Machine

/-! ### What a target change makes of one key (R126) -/

/-- An IDLE key whose record becomes `new` joins the queue: its target steps changed, and it stands away from them. -/
def KeyRec.joins (old new : KeyRec) : Bool :=
  match old.drive, new.steps with
  | .idle q, some n => n != q && new.steps != old.steps
  | _, _ => false

/-- A QUEUED key whose record becomes `new` leaves the queue: its target steps changed, to its position or to none. -/
def KeyRec.leaves (old new : KeyRec) : Bool :=
  match old.drive with
  | .queued q => (new.steps == none || new.steps == some q) && new.steps != old.steps
  | _ => false

theorem KeyRec.joins_iff (old new : KeyRec) : old.joins new = true ↔
    ∃ q n, old.drive = .idle q ∧ new.steps = some n ∧ n ≠ q ∧ new.steps ≠ old.steps := by
  cases hdrive : old.drive <;> cases hsteps : new.steps <;> simp [KeyRec.joins, hdrive, hsteps]

theorem KeyRec.leaves_iff (old new : KeyRec) : old.leaves new = true ↔
    ∃ q, old.drive = .queued q ∧ (new.steps = none ∨ new.steps = some q) ∧ new.steps ≠ old.steps := by
  cases hdrive : old.drive <;> simp [KeyRec.leaves, hdrive]

theorem KeyRec.joins_eq_false {old new : KeyRec} (h : new.steps = old.steps ∨ old.drive.state ≠ .idle) :
    old.joins new = false := Bool.eq_false_iff.mpr fun hj => by
  obtain ⟨q, n, hdrive, -, -, hne⟩ := (KeyRec.joins_iff old new).mp hj
  exact h.elim hne fun hs => hs (by rw [hdrive]; rfl)

theorem KeyRec.leaves_eq_false {old new : KeyRec} (h : new.steps = old.steps ∨ old.drive.state ≠ .queued) :
    old.leaves new = false := Bool.eq_false_iff.mpr fun hl => by
  obtain ⟨q, hdrive, -, hne⟩ := (KeyRec.leaves_iff old new).mp hl
  exact h.elim hne fun hs => hs (by rw [hdrive]; rfl)

/-- Key k of the tower joins the queue at a refresh. -/
def Tower.joinsLine (curves : Vector (List Point) 16) (tw : Tower) (k : Nat) : Bool :=
  tw.state != .dark && tw.keys[k]?.any fun key => key.joins (tw.presetKey curves k key)

/-- Key k of the tower leaves the queue at a refresh. -/
def Tower.leavesLine (curves : Vector (List Point) 16) (tw : Tower) (k : Nat) : Bool :=
  tw.keys[k]?.any fun key => key.leaves (tw.presetKey curves k key)

/-- The record that a refresh leaves key k where nothing is sent. -/
def Tower.quietRecord (curves : Vector (List Point) 16) (tw : Tower) (k : Nat) (key : KeyRec) : KeyRec :=
  let new := tw.presetKey curves k key
  { new with drive :=
      if tw.state != .dark && key.joins new then key.drive.toQueued
      else if key.leaves new then key.drive.toIdle else key.drive }

/-- The tower after a refresh of keys that sends nothing. -/
def Tower.quietRefresh (curves : Vector (List Point) 16) (ks : List Nat) (tw : Tower) : Tower :=
  { tw with
    keys := tw.keys.mapIdx fun k key => if k ∈ ks then tw.quietRecord curves k key else key
    queue := (tw.queue.filter fun k => !(decide (k ∈ ks) && tw.leavesLine curves k)) ++ ks.filter (tw.joinsLine curves) }

section Quiet

variable (curves : Vector (List Point) 16)

theorem mapIdx_id {α : Type} (l : List α) : l.mapIdx (fun _ a => a) = l :=
  List.ext_getElem? fun i => by rw [List.getElem?_mapIdx, Option.map_id']

theorem Tower.quietRefresh_nil (tw : Tower) : tw.quietRefresh curves [] = tw := by
  simp [Tower.quietRefresh, mapIdx_id]

theorem Tower.getElem?_quietRefresh (ks : List Nat) (tw : Tower) (k : Nat) :
    (tw.quietRefresh curves ks).keys[k]? = tw.keys[k]?.map fun key => if k ∈ ks then tw.quietRecord curves k key else key :=
  List.getElem?_mapIdx

/-- The keys of a list are written one after another. -/
theorem Tower.quietRefresh_cons {k : Nat} {ks : List Nat} (hk : k ∉ ks) (tw : Tower) :
    tw.quietRefresh curves (k :: ks) = (tw.quietRefresh curves [k]).quietRefresh curves ks := by
  set tw' := tw.quietRefresh curves [k] with htw'
  have hrecord : tw'.quietRecord curves = tw.quietRecord curves := rfl
  have hkey : ∀ j ∈ ks, tw'.keys[j]? = tw.keys[j]? := fun j hj => by
    have hne : j ≠ k := fun e => hk (e ▸ hj)
    rw [htw', Tower.getElem?_quietRefresh]
    simp [hne]
  have hjoins : ks.filter (tw'.joinsLine curves) = ks.filter (tw.joinsLine curves) :=
    List.filter_congr fun j hj => by
      rw [Tower.joinsLine, hkey j hj]
      rfl
  have hleaves : ∀ j ∈ ks, tw'.leavesLine curves j = tw.leavesLine curves j := fun j hj => by
    rw [Tower.leavesLine, hkey j hj]
    rfl
  have hkeys : tw'.keys.mapIdx (fun j key => if j ∈ ks then tw.quietRecord curves j key else key) =
      tw.keys.mapIdx fun j key => if j ∈ k :: ks then tw.quietRecord curves j key else key :=
    List.ext_getElem? fun j => by
      rw [List.getElem?_mapIdx, List.getElem?_mapIdx, htw', Tower.getElem?_quietRefresh, Option.map_map]
      congr 1
      funext key
      by_cases hj : j = k
      · subst hj
        simp [hk]
      · simp [hj]
  have hqueue : (tw'.queue.filter fun j => !(decide (j ∈ ks) && tw'.leavesLine curves j)) ++ ks.filter (tw'.joinsLine curves) =
      (tw.queue.filter fun j => !(decide (j ∈ k :: ks) && tw.leavesLine curves j)) ++ (k :: ks).filter (tw.joinsLine curves) := by
    have hold : tw'.queue = (tw.queue.filter fun j => !(decide (j ∈ [k]) && tw.leavesLine curves j)) ++
        [k].filter (tw.joinsLine curves) := rfl
    have hkept : ([k].filter (tw.joinsLine curves)).filter (fun j => !(decide (j ∈ ks) && tw'.leavesLine curves j)) =
        [k].filter (tw.joinsLine curves) := List.filter_eq_self.mpr fun j hj => by
      obtain rfl : j = k := List.mem_singleton.mp (List.mem_of_mem_filter hj)
      simp [hk]
    have hsplit : (k :: ks).filter (tw.joinsLine curves) = [k].filter (tw.joinsLine curves) ++ ks.filter (tw.joinsLine curves) :=
      List.filter_append (l₁ := [k]) ks
    rw [hold, List.filter_append, hkept, List.filter_filter, hjoins, hsplit, List.append_assoc]
    congr 1
    refine List.filter_congr fun j _ => ?_
    by_cases hj : j ∈ ks
    · have hne : j ≠ k := fun e => hk (e ▸ hj)
      simp [hj, hne, hleaves j hj]
    · by_cases hjk : j = k <;> simp [hj, hjk]
      exact fun _ => .inl (hjk ▸ hj)
  unfold Tower.quietRefresh
  rw [← hqueue, ← hkeys]
  rfl

/-! ### A refresh of one key -/

section OneKey

variable {tw : Tower} {k : Nat} {key : KeyRec}

theorem mapIdx_single {α : Type} {l : List α} {k : Nat} {a : α} (h : l[k]? = some a) (f : Nat → α → α) :
    l.mapIdx (fun j a => if j ∈ [k] then f j a else a) = l.set k (f k a) :=
  List.ext_getElem? fun j => by
    rw [List.getElem?_mapIdx, List.getElem?_set]
    by_cases hj : k = j
    · subst hj
      obtain ⟨hlt, rfl⟩ := List.getElem?_eq_some_iff.mp h
      simp [hlt]
    · simp [hj, Ne.symm hj]

theorem Tower.joinsLine_of_key (h : tw.keys[k]? = some key) :
    tw.joinsLine curves k = (tw.state != .dark && key.joins (tw.presetKey curves k key)) := by
  rw [Tower.joinsLine, h]
  rfl

theorem Tower.leavesLine_of_key (h : tw.keys[k]? = some key) :
    tw.leavesLine curves k = key.leaves (tw.presetKey curves k key) := by
  rw [Tower.leavesLine, h]
  rfl

/-- What a quiet refresh of one key is, with the operations of the queue. -/
theorem Tower.quietRefresh_key (h : tw.keys[k]? = some key) :
    let written := tw.updateKey k fun _ => tw.presetKey curves k key
    tw.quietRefresh curves [k] =
      if tw.joinsLine curves k then written.enqueue k else if tw.leavesLine curves k then written.dequeue k else written := by
  intro written
  have hwritten : written = { tw with keys := tw.keys.set k (tw.presetKey curves k key) } := Tower.updateKey_eq h _
  have hat : written.keys[k]? = some (tw.presetKey curves k key) := by
    rw [hwritten]
    exact getElem?_set_of_getElem? h _
  have hfilter : ∀ b : Bool, (tw.queue.filter fun j => !(decide (j ∈ [k]) && (b && j == k))) =
      if b then tw.queue.filter (· != k) else tw.queue := fun b => by
    cases b with
    | false => simp
    | true => exact List.filter_congr fun j _ => by by_cases hj : j = k <;> simp [hj]
  have hleft : (tw.queue.filter fun j => !(decide (j ∈ [k]) && tw.leavesLine curves j)) =
      if tw.leavesLine curves k then tw.queue.filter (· != k) else tw.queue := by
    rw [← hfilter]
    exact List.filter_congr fun j _ => by by_cases hj : j = k <;> simp [hj]
  have hboth : tw.joinsLine curves k = true → tw.leavesLine curves k = false := fun hj => by
    rw [Tower.joinsLine_of_key curves h, Bool.and_eq_true] at hj
    rw [Tower.leavesLine_of_key curves h]
    obtain ⟨-, hj⟩ := hj
    cases hdrive : key.drive <;> simp_all [KeyRec.joins, KeyRec.leaves]
  have hrecord : tw.quietRecord curves k key = { tw.presetKey curves k key with
      drive := if tw.joinsLine curves k then key.drive.toQueued
        else if tw.leavesLine curves k then key.drive.toIdle else key.drive } := by
    rw [Tower.joinsLine_of_key curves h, Tower.leavesLine_of_key curves h]
    rfl
  unfold Tower.quietRefresh
  rw [mapIdx_single h, hleft, hrecord]
  cases hj : tw.joinsLine curves k with
  | true =>
    rw [hboth hj, if_pos rfl, Tower.enqueue, Tower.updateKey_eq hat, hwritten]
    simp [hj]
  | false =>
    cases hl : tw.leavesLine curves k with
    | true =>
      rw [if_neg Bool.false_ne_true, if_pos rfl, Tower.dequeue, Tower.updateKey_eq hat, hwritten]
      simp [hj]
    | false =>
      have hsame : { tw.presetKey curves k key with drive := key.drive } = tw.presetKey curves k key := by
        rw [← Tower.presetKey_drive tw curves k key]
      rw [if_neg Bool.false_ne_true, if_neg Bool.false_ne_true, hwritten]
      simp only [hj, Bool.false_eq_true, if_false, hsame, List.filter_cons, List.filter_nil, List.append_nil]

/-- A refresh of one key: what a quiet one does, with the dispatch check of a key that joins the queue and the drain check of one
that leaves it (R57, R126). -/
theorem Tower.refreshKey_of_key (h : tw.keys[k]? = some key) : tw.refreshKey curves k =
    if tw.joinsLine curves k then (tw.quietRefresh curves [k]).dispatch
    else if tw.leavesLine curves k then (tw.quietRefresh curves [k]).drainCheck else tw.quietRefresh curves [k] := by
  rw [Tower.quietRefresh_key curves h]
  set written := tw.updateKey k fun _ => tw.presetKey curves k key with hwritten
  have hat : written.keys[k]? = some (tw.presetKey curves k key) := by
    rw [hwritten, Tower.updateKey_eq h]
    exact getElem?_set_of_getElem? h _
  have hrefresh : tw.refreshKey curves k =
      if (tw.presetKey curves k key).steps = key.steps then written else written.targetChange k := by
    simp only [Tower.refreshKey, h, hwritten]
  rw [hrefresh, Tower.joinsLine_of_key curves h, Tower.leavesLine_of_key curves h]
  by_cases hsteps : (tw.presetKey curves k key).steps = key.steps
  · simp [KeyRec.joins_eq_false (.inl hsteps), KeyRec.leaves_eq_false (.inl hsteps), hsteps]
  · have hsame := Tower.presetKey_drive tw curves k key
    rw [if_neg hsteps]
    cases hdrive : key.drive <;> rw [hdrive] at hsame
    case idle q =>
      have haway : key.joins (tw.presetKey curves k key) = written.isAway k := by
        rw [Bool.eq_iff_iff, KeyRec.joins_iff, Tower.isAway_of_idle hat hsame]
        constructor
        · rintro ⟨q', n, hd, hn, hne, -⟩
          obtain rfl : q = q' := Drive.idle.inj (hdrive.symm.trans hd)
          exact ⟨n, hn, hne⟩
        · rintro ⟨n, hn, hne⟩
          exact ⟨q, n, hdrive, hn, hne, hsteps⟩
      have hleaves : key.leaves (tw.presetKey curves k key) = false := KeyRec.leaves_eq_false (.inr (by simp [hdrive, Drive.state]))
      have hstate : written.state = tw.state := rfl
      simp only [Tower.targetChange, hat, hsame, Tower.seekTarget, haway, hleaves, hstate]
      split <;> rfl
    case queued q =>
      have hjoins : key.joins (tw.presetKey curves k key) = false := KeyRec.joins_eq_false (.inr (by simp [hdrive, Drive.state]))
      simp only [Tower.targetChange, hat, hsame, hjoins, Bool.and_false, Bool.false_eq_true, if_false]
      cases hn : (tw.presetKey curves k key).steps with
      | none =>
        have hleaves : key.leaves (tw.presetKey curves k key) = true :=
          (KeyRec.leaves_iff ..).mpr ⟨q, hdrive, .inl hn, hsteps⟩
        simp only [hleaves, if_true]
      | some n =>
        have hleaves : key.leaves (tw.presetKey curves k key) = decide (n = q) := by
          rw [Bool.eq_iff_iff, KeyRec.leaves_iff, decide_eq_true_iff]
          simp [hdrive, hn, hn ▸ hsteps, eq_comm]
        by_cases hnq : n = q <;> simp [hleaves, hnq]
    all_goals
      have hjoins : key.joins (tw.presetKey curves k key) = false := KeyRec.joins_eq_false (.inr (by simp [hdrive, Drive.state]))
      have hleaves : key.leaves (tw.presetKey curves k key) = false := KeyRec.leaves_eq_false (.inr (by simp [hdrive, Drive.state]))
      simp only [Tower.targetChange, hat, hsame, hjoins, hleaves, Bool.and_false, Bool.false_eq_true, if_false]

end OneKey

theorem Tower.quietRefresh_of_no_key {tw : Tower} {k : Nat} (hkey : tw.keys[k]? = none) : tw.quietRefresh curves [k] = tw := by
  have hkeys : tw.keys.mapIdx (fun j key => if j ∈ [k] then tw.quietRecord curves j key else key) = tw.keys :=
    List.ext_getElem? fun j => by
      rw [List.getElem?_mapIdx]
      by_cases hj : j = k
      · subst hj
        simp [hkey]
      · simp [hj]
  have hjoins : tw.joinsLine curves k = false := by simp [Tower.joinsLine, hkey]
  have hleaves : tw.leavesLine curves k = false := by simp [Tower.leavesLine, hkey]
  have hqueue : (tw.queue.filter fun j => !(decide (j ∈ [k]) && tw.leavesLine curves j)) = tw.queue :=
    List.filter_eq_self.mpr fun j _ => by by_cases hj : j = k <;> simp [hj, hleaves]
  unfold Tower.quietRefresh
  rw [hkeys, hqueue, List.filter_cons_of_neg (by simp [hjoins]), List.filter_nil, List.append_nil]

/-! ### A refresh in a tower that does not run -/

theorem Tower.dispatch_quietRefresh_of_stopped {tw : Tower} (hstopped : tw.running = false) (ks : List Nat) :
    (tw.quietRefresh curves ks).dispatch = tw.quietRefresh curves ks := Tower.dispatch_of_not_running hstopped

/-- In a DARK or HELD tower nothing is sent and no drain check finds anything. -/
theorem Tower.refreshKey_of_stopped {tw : Tower} (hstopped : tw.running = false) (k : Nat) :
    tw.refreshKey curves k = tw.quietRefresh curves [k] := by
  have hstate : tw.state ≠ .presetting := fun e => by simp [Tower.running, e] at hstopped
  have hdrain : (tw.quietRefresh curves [k]).drainCheck = tw.quietRefresh curves [k] := if_neg fun h => hstate h.1
  cases hkey : tw.keys[k]? with
  | some key =>
    rw [Tower.refreshKey_of_key curves hkey, Tower.dispatch_quietRefresh_of_stopped curves hstopped, hdrain]
    split <;> [rfl; split <;> rfl]
  | none =>
    rw [Tower.quietRefresh_of_no_key curves hkey]
    simp [Tower.refreshKey, hkey]

theorem Tower.refreshKeys_of_stopped {ks : List Nat} (hnodup : ks.Nodup) {tw : Tower} (hstopped : tw.running = false) :
    ks.foldl (Tower.refreshKey curves) tw = tw.quietRefresh curves ks := by
  induction ks generalizing tw with
  | nil => exact (tw.quietRefresh_nil curves).symm
  | cons k ks ih =>
    obtain ⟨hk, hrest⟩ := List.nodup_cons.mp hnodup
    rw [List.foldl_cons, Tower.refreshKey_of_stopped curves hstopped, ih hrest (tw := tw.quietRefresh curves [k]) hstopped,
      ← Tower.quietRefresh_cons curves hk]

/-- The sweep of a tower that does not run is written and not sent (R142). -/
theorem Tower.refreshSweep_of_stopped {tw : Tower} (hstopped : tw.running = false) :
    tw.refreshSweep = { tw with sweep := if tw.run.complete then some tw.presetSweep else none } := by
  rcases tw.refreshSweep_cases with ⟨h, e⟩ | ⟨-, e⟩ <;> rw [e]
  · rw [h]
  · exact if_neg (by rw [← Bool.not_eq_true] at hstopped; exact hstopped)

/-- A refresh of a tower that does not run, written out (R57). -/
theorem Tower.refresh_of_stopped {ks : List Nat} (hnodup : ks.Nodup) {tw : Tower} (hstopped : tw.running = false) (sweepToo : Bool) :
    tw.refresh curves ks sweepToo =
      { tw.quietRefresh curves ks with sweep := (tw.refresh curves ks sweepToo).sweep } := by
  unfold Tower.refresh
  rw [Tower.refreshKeys_of_stopped curves hnodup hstopped]
  cases sweepToo with
  | false => rfl
  | true =>
    rw [if_pos rfl, Tower.refreshSweep_of_stopped (tw := tw.quietRefresh curves ks) hstopped]

end Quiet

end Sys2Proof.Machine

/-! SUPPORT. The restart written out (R141, R144). -/

namespace Sys2Proof.Machine

/-! ### A refresh of a DARK tower -/

/-- A refresh of keys that neither join the queue nor leave it writes their records and nothing else. -/
theorem Tower.quietRefresh_of_still (curves : Vector (List Point) 16) (ks : List Nat) {tw : Tower}
    (hstill : ∀ k ∈ ks, tw.joinsLine curves k = false ∧ tw.leavesLine curves k = false) :
    tw.quietRefresh curves ks =
      { tw with keys := tw.keys.mapIdx fun k key => if k ∈ ks then tw.presetKey curves k key else key } := by
  have hrecords : tw.keys.mapIdx (fun k key => if k ∈ ks then tw.quietRecord curves k key else key) =
      tw.keys.mapIdx fun k key => if k ∈ ks then tw.presetKey curves k key else key := List.ext_getElem? fun k => by
    rw [List.getElem?_mapIdx, List.getElem?_mapIdx]
    cases hkey : tw.keys[k]? with
    | none => rfl
    | some key =>
      by_cases hk : k ∈ ks
      · obtain ⟨hjoins, hleaves⟩ := hstill k hk
        rw [Tower.joinsLine_of_key curves hkey] at hjoins
        rw [Tower.leavesLine_of_key curves hkey] at hleaves
        have hrecord : tw.quietRecord curves k key = tw.presetKey curves k key := by
          simp only [Tower.quietRecord, hjoins, hleaves, Bool.false_eq_true, if_false]
          rw [← Tower.presetKey_drive tw curves k key]
        simp only [Option.map_some, hrecord]
      · simp [hk]
  have hqueue : (tw.queue.filter fun k => !(decide (k ∈ ks) && tw.leavesLine curves k)) ++ ks.filter (tw.joinsLine curves) =
      tw.queue := by
    rw [List.filter_eq_self.mpr fun k _ => by
        by_cases hk : k ∈ ks
        · simp [hk, (hstill k hk).2]
        · simp [hk],
      List.filter_eq_nil_iff.mpr fun k hk => by simp [(hstill k hk).1],
      List.append_nil]
  unfold Tower.quietRefresh
  rw [hrecords, hqueue]

/-- In a DARK tower a refresh of keys that are not QUEUED writes their records and nothing else. -/
theorem Tower.quietRefresh_of_dark (curves : Vector (List Point) 16) (ks : List Nat) {tw : Tower} (hdark : tw.state = .dark)
    (hkeys : ∀ k ∈ ks, ∀ key : KeyRec, tw.keys[k]? = some key → key.drive.state ≠ .queued) :
    tw.quietRefresh curves ks =
      { tw with keys := tw.keys.mapIdx fun k key => if k ∈ ks then tw.presetKey curves k key else key } := by
  refine Tower.quietRefresh_of_still curves ks fun k hk => ⟨by simp [Tower.joinsLine, hdark], ?_⟩
  cases hkey : tw.keys[k]? with
  | none => simp [Tower.leavesLine, hkey]
  | some key => rw [Tower.leavesLine_of_key curves hkey, KeyRec.leaves_eq_false (.inr (hkeys k hk key hkey))]

theorem Tower.refresh_of_dark (curves : Vector (List Point) 16) {ks : List Nat} (hnodup : ks.Nodup) {tw : Tower}
    (hdark : tw.state = .dark) (hkeys : ∀ k ∈ ks, ∀ key : KeyRec, tw.keys[k]? = some key → key.drive.state ≠ .queued)
    (sweepToo : Bool) : tw.refresh curves ks sweepToo = { tw with
      keys := tw.keys.mapIdx fun k key => if k ∈ ks then tw.presetKey curves k key else key
      sweep := (tw.refresh curves ks sweepToo).sweep } := by
  rw [Tower.refresh_of_stopped curves hnodup (by simp [Tower.running, hdark]), Tower.quietRefresh_of_dark curves ks hdark hkeys]

theorem Tower.refreshKeys_of_dark (curves : Vector (List Point) 16) {ks : List Nat} (hnodup : ks.Nodup) {tw : Tower}
    (hdark : tw.state = .dark) (hkeys : ∀ k ∈ ks, ∀ key : KeyRec, tw.keys[k]? = some key → key.drive.state ≠ .queued) :
    tw.refresh curves ks false =
      { tw with keys := tw.keys.mapIdx fun k key => if k ∈ ks then tw.presetKey curves k key else key } :=
  (Tower.refreshKeys_of_stopped curves hnodup (by simp [Tower.running, hdark])).trans
    (Tower.quietRefresh_of_dark curves ks hdark hkeys)

/-- No key of a sound DARK tower is QUEUED (R124). -/
theorem Tower.QueueSound.not_queued_of_dark {tw : Tower} (h : tw.QueueSound) (hdark : tw.state = .dark) {k : Nat} {key : KeyRec}
    (hkey : tw.keys[k]? = some key) : key.drive.state ≠ .queued := fun hqueued => by
  have hmem : k ∈ tw.queue := (h.2.1 k).mpr (by simp [Tower.isQueued, hkey, hqueued])
  rw [h.2.2.1 hdark] at hmem
  cases hmem

/-! ### The drive port (R129, R141) -/

theorem DrivePort.sendAll_framer (d : DrivePort) (ms : List DriveMessage) : (d.sendAll ms).framer = d.framer := by
  induction ms generalizing d with
  | nil => rfl
  | cons m ms ih => exact (ih (d.send m)).trans (d.send_framer m)

/-- Messages wait in the order in which they are made (R129). -/
theorem DrivePort.sendAll_messages (ms : List DriveMessage) (d : DrivePort) (h : d.LineSound) :
    (d.sendAll ms).sending.toList ++ (d.sendAll ms).waiting = d.sending.toList ++ d.waiting ++ ms := by
  induction ms generalizing d with
  | nil => simp [DrivePort.sendAll]
  | cons m ms ih =>
    have hsound : (d.send m).LineSound := fun hnone => absurd hnone (d.send_sending m)
    refine (ih (d.send m) hsound).trans ?_
    rw [d.send_messages m h, List.append_assoc]
    rfl

/-! ### One tower at the restart (R141, R144) -/

theorem Tower.restarted_eq (tw : Tower) : tw.restarted = { tw with
    state := .dark
    keys := tw.keys.map fun key : KeyRec => { key with drive := Drive.unknown, acc := 0 }
    queue := []
    moving := 0
    lastSweep := none
    counters := LoopCounters.zero
    port := tw.port.restarted.sendAll ((List.range tw.z).map .ask) } := by
  have hkeys : (tw.keys.map fun key : KeyRec => { key with drive := Drive.unknown, acc := 0 }).mapIdx
      (fun k (key : KeyRec) => if k ∈ List.range tw.z then { key with drive := Drive.unknown } else key) =
      tw.keys.map fun key : KeyRec => { key with drive := Drive.unknown, acc := 0 } := List.ext_getElem? fun k => by
    rw [mapIdx_map, List.getElem?_mapIdx, List.getElem?_map]
    congr 1
    funext key
    simp
  rw [Tower.restarted, Tower.surveyAll_eq, Tower.allKeys]
  simp only [hkeys]

/-! ### The Fault List at the restart (R62, R144) -/

/-- Refreshes of distinct towers log one CURVE_INCOMPLETE fault for each that holds a key, in their order (R62). -/
theorem State.refreshTowers_faults (ts : List TowerIx) (hnodup : ts.Nodup) (s : State) :
    (ts.foldl State.refreshTower s).faults = (ts.filter fun t => (s.tower t).holdsAny s.curves (s.tower t).allKeys).foldl
      (fun l t => l.log .curveIncomplete (.tower t) s.sheets) s.faults := by
  induction ts generalizing s with
  | nil => rfl
  | cons a ts ih =>
    obtain ⟨hnot, hrest⟩ := List.nodup_cons.mp hnodup
    have hsame : (ts.filter fun t => ((s.refreshTower a).tower t).holdsAny s.curves ((s.refreshTower a).tower t).allKeys) =
        ts.filter fun t => (s.tower t).holdsAny s.curves (s.tower t).allKeys := List.filter_congr fun t ht => by
      rw [State.refreshTower, State.refresh_tower_of_ne _ _ _ (show t ≠ a from fun e => hnot (e ▸ ht))]
    have hcurves : (s.refreshTower a).curves = s.curves := State.refresh_curves ..
    have hsheets : (s.refreshTower a).sheets = s.sheets := State.refresh_sheets ..
    have hfaults : (s.refreshTower a).faults = if (s.tower a).holdsAny s.curves (s.tower a).allKeys then
        s.faults.log .curveIncomplete (.tower a) s.sheets else s.faults := State.refresh_faults ..
    rw [List.foldl_cons, ih hrest, hcurves, hsheets, hsame, hfaults, List.filter_cons]
    split <;> rfl

/-- The record that a CURVE_INCOMPLETE fault of a tower makes (R162). -/
def curveIncompleteRecord (sheet : Sheet) (t : TowerIx) : FaultRecord :=
  { kind := .curveIncomplete, origin := .tower t, first := sheet, last := sheet, count := 1 }

/-- Faults of distinct towers on an empty list each make a record of their own (R162). -/
theorem FaultList.log_towers (sheet : Sheet) (ts before : List TowerIx) (hnodup : (before ++ ts).Nodup) :
    ts.foldl (fun (l : FaultList) t => l.log .curveIncomplete (.tower t) sheet)
      { records := before.map (curveIncompleteRecord sheet), full := false } =
      { records := (before ++ ts).map (curveIncompleteRecord sheet), full := false } := by
  induction ts generalizing before with
  | nil => simp
  | cons t ts ih =>
    have hlength : (before ++ t :: ts).length ≤ 12 := by
      simpa using List.Nodup.length_le_card hnodup
    have hstep : ({ records := before.map (curveIncompleteRecord sheet), full := false } : FaultList).log .curveIncomplete (.tower t)
        sheet = { records := (before ++ [t]).map (curveIncompleteRecord sheet), full := false } := by
      rcases FaultList.log_cases { records := before.map (curveIncompleteRecord sheet), full := false } .curveIncomplete (.tower t)
          sheet with ⟨hany, -⟩ | ⟨-, -, e⟩ | ⟨-, hfull, -⟩
      · obtain ⟨r, hr, -, horigin⟩ := (FaultList.any_matches_iff ..).mp hany
        obtain ⟨t', ht', rfl⟩ := List.mem_map.mp hr
        obtain rfl : t' = t := Origin.tower.inj horigin
        exact absurd rfl (List.nodup_append.mp hnodup |>.2.2 t' ht' t' List.mem_cons_self)
      · rw [e, List.map_append]
        rfl
      · simp only [List.length_map, List.length_append, List.length_cons] at hfull hlength
        omega
    rw [List.foldl_cons, hstep, ih (before ++ [t]) (by simpa using hnodup), List.append_assoc]
    rfl

/-- A refresh of every key logs where a key looks up an INCOMPLETE curve while RUN is COMPLETE (R62). -/
theorem Tower.holdsAny_allKeys_iff (curves : Vector (List Point) 16) (tw : Tower) : tw.holdsAny curves tw.allKeys = true ↔
    tw.run.complete = true ∧ ∃ k, k < tw.z ∧ (curves.get (tw.curveOf k)).length < 2 := by
  simp [Tower.holdsAny, Tower.allKeys, usable]

/-! ### The restart (R144) -/

/-- What the restart makes of one tower (R141, R144). -/
theorem State.restart_tower_eq (s : State) (t : TowerIx) :
    let tw := s.tower t
    let tw' := s.restart.tower t
    tw' = { tw.restarted with
      keys := tw.restarted.keys.mapIdx fun k key => if k ∈ tw.allKeys then tw.restarted.presetKey s.curves k key else key
      sweep := tw'.sweep } := by
  intro tw tw'
  obtain ⟨-, -, -, -, -, -, htower⟩ := s.restart_spec
  have hkeys : ∀ k ∈ List.range tw.z, ∀ key : KeyRec, tw.restarted.keys[k]? = some key → key.drive.state ≠ .queued := fun k _ key hkey => by
    rw [Tower.restarted_eq, List.getElem?_map] at hkey
    obtain ⟨old, -, rfl⟩ := Option.map_eq_some_iff.mp hkey
    simp [Drive.state]
  have hrefresh := Tower.refresh_of_dark s.curves (List.nodup_range (n := tw.z)) (Tower.restarted_state tw) hkeys true
  show s.restart.tower t = _
  rw [show tw'.sweep = (tw.restarted.refresh s.curves (List.range tw.z) true).sweep from congrArg Tower.sweep (htower t), htower t]
  exact hrefresh

/-- What the restart keeps and resets of one tower, but for its computed values (R141, R144). -/
theorem State.restart_tower_fields (s : State) (t : TowerIx) :
    let tw := s.tower t
    let tw' := s.restart.tower t
    tw'.config = tw.config ∧ tw'.run = tw.run ∧ tw'.next = tw.next ∧ tw'.state = .dark ∧ tw'.queue = [] ∧ tw'.moving = 0 ∧
      tw'.lastSweep = none ∧ tw'.counters = LoopCounters.zero ∧
      tw'.port = tw.port.restarted.sendAll ((List.range tw.z).map .ask) ∧ tw'.keys.length = tw.keys.length ∧
      ∀ k : Nat, tw'.keys[k]? = (tw.keys[k]?.map fun key : KeyRec => { key with drive := Drive.unknown, acc := 0 }).map fun key =>
        if k ∈ tw.allKeys then tw.restarted.presetKey s.curves k key else key := by
  intro tw tw'
  have heq : tw' = _ := s.restart_tower_eq t
  refine ⟨?_, ?_, ?_, ?_, ?_, ?_, ?_, ?_, ?_, ?_, fun k => ?_⟩
  all_goals rw [heq]
  case refine_10 =>
    rw [List.length_mapIdx, Tower.restarted_eq, List.length_map]
  case refine_11 =>
    rw [List.getElem?_mapIdx, Tower.restarted_eq, List.getElem?_map]
  all_goals rw [Tower.restarted_eq]


theorem State.restart_faults (s : State) : s.restart.faults =
    { records := ((List.finRange 12).filter fun t => (s.tower t).restarted.holdsAny s.curves (s.tower t).restarted.allKeys).map
        (curveIncompleteRecord s.sheets)
      full := false } := by
  have htower : ∀ t, s.restartBlocks.tower t = (s.tower t).restarted := fun t => s.tower_mapTowers Tower.restarted t
  have hlogged := State.refreshTowers_faults (List.finRange 12) (List.nodup_finRange 12) s.restartBlocks
  simp only [htower] at hlogged
  exact hlogged.trans (FaultList.log_towers s.sheets _ [] (by
    rw [List.nil_append]
    exact (List.nodup_finRange 12).filter _))

theorem State.earlyRefusal_restart (s : State) : s.earlyRefusal .console .restart [] = none :=
  State.earlyRefusal_of_no_member (Nat.zero_le _) rfl rfl

theorem exec_restartTakesEffect (s : State) : exec .restartTakesEffect s = execRestartTakesEffect s := rfl

/-- Settles O54. -/
theorem restartTakesEffect : Obligations.RestartTakesEffect := by
  refine ⟨fun s hfree => exec_of_ok (fn := .restart) hfree s.earlyRefusal_restart rfl, fun s hidle => ?_, fun s hpending hbusy => ?_,
    fun s hpending hlength => ?_⟩
  · rw [exec_restartTakesEffect, execRestartTakesEffect, hidle, if_neg Bool.false_ne_true]
  · rw [exec_replySent, execReplySent, if_pos hbusy, if_pos ⟨rfl, hpending⟩, exec_restartTakesEffect, execRestartTakesEffect,
      if_pos hpending]
  · refine ⟨(s.release .console).restart, ?_, ?_⟩
    · rw [exec_restartTakesEffect, execRestartTakesEffect, if_pos hpending]
    obtain ⟨hqueue, hsheets, hcurves, hmasters, haccess, hpending', htower⟩ := (s.release .console).restart_spec
    have hport : ∀ p, ((s.release .console).restart).port p = ((s.release .console).port p).restarted (s.tower 0).z := fun p => by
      rw [State.port_of_masters hmasters, State.restartBlocks_port, State.release_tower]
    have hfaults := (s.release .console).restart_faults
    refine ⟨hqueue, hsheets, hcurves, haccess, hpending', ?_, ?_, fun p hp => ?_, fun p => ?_, ?_, fun r hr => ?_, fun t => ?_⟩
    · rw [hport]
      rfl
    · rw [hport]
      rfl
    · rw [hport, State.release_port_of_ne s hp]
      exact ⟨rfl, rfl⟩
    · rw [hport]
      exact ⟨rfl, rfl⟩
    · rw [hfaults]
    · rw [hfaults] at hr
      obtain ⟨t, -, rfl⟩ := List.mem_map.mp hr
      exact ⟨rfl, rfl, rfl, rfl⟩
    · intro tw tw'
      have hfields := (s.release .console).restart_tower_fields t
      rw [State.release_tower] at hfields
      obtain ⟨hconfig, hrun, hnext, hstate, hqueue', hmoving, hlast, hcounters, hline, hkeyslength, hkeys⟩ := hfields
      have hrestarted : tw' = tw.restarted.refresh s.curves tw.restarted.allKeys true := by
        rw [Tower.allKeys, Tower.restarted_z]
        exact (htower t).trans (by rw [State.release_tower, State.release_curves]; rfl)
      refine ⟨hconfig, hrun, hnext, hstate, hqueue', hmoving, hlast, hcounters, hkeyslength, fun k key hkey => ?_, ?_, ?_, ?_, ?_⟩
      · rw [hkeys, hkey]
        refine ⟨_, rfl, ?_⟩
        split <;> simp
      · rw [hrestarted, hcurves, State.release_curves]
        refine Tower.refreshAll_presetsCurrent s.curves ?_
        rw [Tower.restarted_z, Tower.restarted_eq, List.length_map]
        exact hlength t
      · rw [hline, DrivePort.sendAll_framer]
        rfl
      · rw [hline, DrivePort.sendAll_messages _ _ fun _ => rfl]
        simp [DrivePort.restarted, tw]
      · have hholds : (∃ r ∈ ((s.release .console).restart).faults.records, r.origin = .tower t) ↔
            tw.restarted.holdsAny s.curves tw.restarted.allKeys = true := by
          rw [hfaults]
          simp [curveIncompleteRecord, tw]
        rw [hholds, Tower.holdsAny_allKeys_iff, Tower.restarted_eq]
        rfl

end Sys2Proof.Machine

/-! SUPPORT. A changed trim and a completed RUN slot in a DARK tower (R70, R73). -/

namespace Sys2Proof.Machine

/-! ### What a refresh writes of one key, in the statements' words -/

theorem heldOf_eq (c : TowerConfig) (g : Target) : heldOf c g = heldTarget c g := by
  unfold heldOf heldTarget
  by_cases hlo : g.opening < c.metering.minOpen
  · simp [hlo, motorSteps, roundHalfUp, Nat.mul_assoc]
  · by_cases hhi : c.metering.maxOpen < g.opening <;> simp [hlo, hhi, motorSteps, roundHalfUp, Nat.mul_assoc]

section Preset

variable {curves : Vector (List Point) 16} {tw : Tower} {k : Nat}

theorem Tower.presetKey_of_complete (hc : tw.run.complete = true) (key : KeyRec) : tw.presetKey curves k key =
    { key with effective := some (tw.effectiveCoverage k), target := tw.presetTarget curves k key } := if_pos hc

theorem Tower.presetKey_of_incomplete (hc : tw.run.complete = false) (key : KeyRec) :
    tw.presetKey curves k key = { key with effective := none, target := none } := if_neg (by simp [hc])

theorem Tower.presetTarget_of_usable (hu : 2 ≤ (curves.get (tw.curveOf k)).length) (key : KeyRec) :
    tw.presetTarget curves k key = some (targetOf tw.config (openingFor tw.config.metering (tw.effectiveCoverage k)
      (openingAt (curves.get (tw.curveOf k)) (tw.effectiveCoverage k)) key.trim key.acc)) := by
  rw [targetOf_eq, openingFor_eq]
  exact if_pos ((usable_iff _).mpr hu)

theorem Tower.presetTarget_of_incomplete (hu : (curves.get (tw.curveOf k)).length < 2) (key : KeyRec) :
    tw.presetTarget curves k key = key.target.map (heldOf tw.config) := by
  rw [funext (heldOf_eq tw.config)]
  exact if_neg fun h => absurd ((usable_iff _).mp h) (Nat.not_le.mpr hu)

end Preset

/-! ### A trim that reaches its target (R73, R78) -/

/-- One entry of TRIM SET. -/
theorem exec_trimSet_one {t : TowerIx} {b kb : Byte} {v : Int} {s : State} (hfree : s.busy .console = false)
    (hb : b.toNat = t.val) (hk : kb.toNat < (s.tower t).z) (hlo : -300 ≤ v) (hhi : v ≤ 300) :
    exec (.trimSet .console (b :: kb :: bytesSigned16 v)) s =
      .next ((s.putTrim t kb.toNat v).sendReply .console (0xB6#8 :: 0x00#8 :: b :: bytesSigned16 v)) := by
  have hread : readKeyValues (kb :: bytesSigned16 v) = [(kb.toNat, v)] := by
    have := readKeyValues_entries (entries := [(kb, v)]) fun e he => by
      obtain rfl := List.mem_singleton.mp he
      exact ⟨by omega, by omega⟩
    simpa using this
  have hclamp : clamp (-300) 300 v = v := (clamp_eq_self (by decide)).mpr ⟨hlo, hhi⟩
  have htake : takeTrimSet .console (b :: kb :: bytesSigned16 v) s =
      .ok (s.putTrim t kb.toNat v, .ok, b :: bytesSigned16 v) := by
    rw [takeTrimSet_cons, hread, State.takeTrims_of_keys _ hb (by simpa using hk)]
    simp [State.putTrims, trimWanted, hclamp, clampResult]
  have hearly : s.earlyRefusal .console .trimSet (b :: kb :: bytesSigned16 v) = none :=
    s.earlyRefusal_trimSet ⟨1, Nat.le_refl _, by decide, rfl⟩
  exact exec_of_ok (fn := .trimSet) hfree hearly htake

/-- A changed trim in a DARK tower writes the key's record and logs the fault of an INCOMPLETE curve. -/
theorem State.putTrim_of_dark {s : State} {t : TowerIx} {k : Nat} {key : KeyRec} {v : Int} (hkey : (s.tower t).keys[k]? = some key)
    (hv : v ≠ key.trim) (hdark : (s.tower t).state = .dark) (hstate : key.drive.state ≠ .queued) :
    let given := s.setTower t { s.tower t with
      keys := (s.tower t).keys.set k ((s.tower t).presetKey s.curves k { key with trim := v }) }
    s.putTrim t k v =
      if (s.tower t).holdsAny s.curves [k] then given.logFault .curveIncomplete (.tower t) else given := by
  intro given
  have hwritten : (s.tower t).updateKey k (fun key => { key with trim := v }) =
      { s.tower t with keys := (s.tower t).keys.set k { key with trim := v } } := Tower.updateKey_eq hkey _
  have hat := getElem?_set_of_getElem? hkey { key with trim := v }
  have hrefresh : Tower.refresh s.curves [k] false { s.tower t with keys := (s.tower t).keys.set k { key with trim := v } } =
      { s.tower t with keys := (s.tower t).keys.set k ((s.tower t).presetKey s.curves k { key with trim := v }) } := by
    rw [Tower.refreshKeys_of_dark s.curves (List.nodup_singleton k)
      (tw := { s.tower t with keys := (s.tower t).keys.set k { key with trim := v } }) hdark]
    · simp only [mapIdx_single hat, List.set_set]
      rfl
    · intro j hj key' hkey'
      obtain rfl := List.mem_singleton.mp hj
      obtain rfl := Option.some.inj (hat.symm.trans hkey')
      exact hstate
  rw [State.putTrim_of_ne (by rwa [State.trimOf_of_key hkey]), hwritten, State.refresh]
  simp only [State.tower_setTower_same, State.setTower_setTower, State.setTower_curves, hrefresh]
  rfl

/-- Settles O37. -/
theorem trimReachesTarget : Obligations.TrimReachesTarget := by
  intro t b kb v key s hfree hb k tw m points e args answered given hk hkey hlo hhi
  have hanswer : exec (.trimSet .console args) s = .next (answered (s.putTrim t k v)) := exec_trimSet_one hfree hb hk hlo hhi
  have hpoints : s.curves.get (tw.curveOf k) = points := rfl
  have hholds : tw.run.complete = true → tw.holdsAny s.curves [k] = decide (points.length < 2) := fun hc => by
    have hnot : (!decide (2 ≤ points.length)) = decide (points.length < 2) := by
      rw [Bool.eq_iff_iff]
      simp
    simp only [Tower.holdsAny, hc, usable, List.any_cons, List.any_nil, hpoints, hnot, Bool.true_and, Bool.or_false]
  refine ⟨fun hv => ?_, fun hv hdark hstate hc => ?_⟩
  · rw [hanswer, hv, ← State.trimOf_of_key hkey, State.putTrim_self]
  · rw [hanswer, State.putTrim_of_dark hkey hv hdark hstate, hholds hc, Tower.presetKey_of_complete hc]
    refine ⟨fun hu => ?_, fun hu => ?_⟩
    · rw [Tower.presetTarget_of_usable hu, if_neg fun h => absurd (of_decide_eq_true h) (Nat.not_lt.mpr hu)]
      rfl
    · rw [Tower.presetTarget_of_incomplete hu, if_pos (decide_eq_true hu)]

end Sys2Proof.Machine

/-! SUPPORT. A RUN slot that a fill completes in a DARK tower (R22, R70). -/

namespace Sys2Proof.Machine

/-! ### A slot of one value -/

theorem TowerConfig.Sound.z_pos {c : TowerConfig} (h : c.Sound) : 0 < c.geometry.z := by
  have := h.z_range
  omega

theorem Slot.complete_of_replicate {sl : Slot} {z e : Nat} (h : sl.coverage = List.replicate z (some e)) (hz : 0 < z) :
    sl.complete = true := by
  obtain ⟨n, rfl⟩ := Nat.exists_eq_succ_of_ne_zero (Nat.ne_of_gt hz)
  simp [Slot.complete, Slot.state, h, List.replicate_succ]

section OneValue

variable {tw : Tower} {e : Nat} (hcoverage : tw.run.coverage = List.replicate tw.z (some e))
include hcoverage

theorem Tower.coverageUnder_of_replicate {k : Nat} (hk : k < tw.z) : tw.coverageUnder k = e := by
  simp [Tower.coverageUnder, Slot.zone, hcoverage, Tower.zoneOf_lt hk]

/-- The weighted mean of one value is the value (R59). -/
theorem Tower.effectiveCoverage_of_replicate (hc : tw.config.Sound) {k : Nat} (hk : k < tw.z) : tw.effectiveCoverage k = e := by
  have hparts : (tw.spread k).map (fun jw => jw.2 * tw.coverageUnder jw.1) = (tw.spread k).map fun jw => e * jw.2 :=
    List.map_congr_left fun jw hjw => by
      have hlt : jw.1 < tw.z := by
        have := List.of_mem_filter hjw
        simp only [Bool.and_eq_true, decide_eq_true_eq] at this
        exact this.1
      rw [Tower.coverageUnder_of_replicate hcoverage hlt, Nat.mul_comm]
  have hsum : ((tw.spread k).map fun jw => e * jw.2).sum = e * ((tw.spread k).map Prod.snd).sum := by
    rw [← List.sum_map_mul_left]
  rw [Tower.effectiveCoverage, hparts, hsum, roundHalfUp_mul e (Tower.weights_pos hc hk)]

/-- The sweep of a tower with one value under every key (R68). -/
theorem Tower.presetSweep_of_replicate (hc : tw.config.Sound) (hlength : tw.keys.length = tw.z) (heff : tw.EffectiveCurrent)
    (hcomplete : tw.run.complete = true) : tw.presetSweep =
      max 5 (min 100 (tw.config.metering.sweepBase + (2 * tw.config.metering.sweepGain * e + 1000) / 2000)) := by
  have hz : 0 < tw.z := hc.z_pos
  have hsum : tw.effectiveSum = tw.z * e := by
    rw [heff.effectiveSum hcomplete, hlength, List.map_congr_left (g := fun _ => e) fun k hk =>
      Tower.effectiveCoverage_of_replicate hcoverage hc (List.mem_range.mp hk)]
    simp
  rw [Tower.presetSweep, hsum, Nat.mul_div_cancel_left e hz, roundHalfUp, Nat.mul_assoc]

end OneValue

/-- A fill of the whole window with REPLACE leaves its value in every zone (R28, R33). -/
theorem WriteContext.fill_whole {c : WriteContext} {sl : Slot} {z v : Nat} (hlength : sl.coverage.length = z) (hz : 0 < z)
    (hmode : c.mode = .replace) (hfirst : c.first = 0) (hlast : c.last = z - 1) (hmask : ∀ i, i < z → c.mask.getLsbD i = true) :
    c.fill v sl = { sl with coverage := List.replicate z (some (min v 1000)) } := by
  obtain ⟨hlen, htag, hmirrored⟩ := c.fill_leaves v sl
  have hcoverage : (c.fill v sl).coverage = List.replicate z (some (min v 1000)) := by
    refine List.ext_getElem (by simp [hlen, hlength]) fun i hi _ => ?_
    have hlt : i < z := by omega
    have hzone := WriteContext.zone_fill (c := c) (sl := sl) (by omega) v i
    rw [if_pos ⟨by omega, by omega, hmask i hlt⟩, hmode, Slot.zone, List.getElem?_eq_getElem hi] at hzone
    simpa [combine] using hzone
  cases hfill : c.fill v sl
  rw [hfill] at htag hmirrored hcoverage
  simp_all

theorem WriteContext.length_whole {c : WriteContext} {z : Nat} (hz : 0 < z) (hfirst : c.first = 0) (hlast : c.last = z - 1)
    (hmask : ∀ i, i < z → c.mask.getLsbD i = true) : (c.window.filter c.masksIn).length = z := by
  have hall : c.window.filter c.masksIn = c.window := List.filter_eq_self.mpr fun i hi => by
    have := (c.mem_window i).mp hi
    exact hmask i (by omega)
  rw [hall]
  simp only [WriteContext.window, List.length_map, List.length_range]
  omega

/-! ### A slot that enters COMPLETE (R22, R70) -/

theorem State.storeSlot_run_completed (s : State) (t : TowerIx) {sl : Slot} (hold : (s.tower t).run.complete = false)
    (hnew : sl.complete = true) : s.storeSlot t .run sl = (s.setTower t { s.tower t with run := sl }).refreshTower t := by
  simp [State.storeSlot, State.handOnCoverage, Tower.setSlot, hold, hnew]

/-- Settles O35. -/
theorem completingRunPresets : Obligations.CompletingRunPresets := by
  intro p v s hp hfree hv c t tw m e curveOf hpermits hslot hmode hfirst hlast hmask hdark hincomplete hshape hsound
  obtain ⟨hconfig, hlength, hrun, -⟩ := hshape
  have hz : 0 < tw.z := hconfig.z_pos
  set filled : Slot := { tw.run with coverage := List.replicate tw.z (some e) } with hfilled
  have hfill : c.fill v tw.run = filled := WriteContext.fill_whole hrun.1 hz hmode hfirst hlast hmask
  have hcomplete : filled.complete = true := Slot.complete_of_replicate rfl hz
  set stored : Tower := { tw with run := filled } with hstored
  set u := (s.setTower t stored).refreshTower t with hu
  have hexec : exec (.zonesFill p (bytes16 v)) s = .next (u.sendReply p
      [0x93#8, if 1000 < v then 0x01#8 else 0x00#8, byteOf tw.z]) := by
    rw [exec_zonesFill_of_permits hp hfree hv hpermits ((tw.mayStore_iff c.slot).mpr (.inr (.inl hdark))), hslot,
      WriteContext.length_whole hz hfirst hlast hmask]
    have hslotted : c.fill v (tw.slot .run) = filled := hfill
    rw [hslotted, State.storeSlot_run_completed s t hincomplete hcomplete]
  have htower : u.tower t = stored.refresh s.curves stored.allKeys true := by
    rw [hu, State.refreshTower_tower, if_pos rfl, State.tower_setTower_same]
    rfl
  have hdone := Tower.refresh_of_dark s.curves (ks := stored.allKeys) List.nodup_range (tw := stored) hdark
    (fun k _ key hkey => hsound.not_queued_of_dark hdark hkey) true
  rw [← htower] at hdone
  have hcurrent : (u.tower t).PresetsCurrent s.curves := htower ▸ Tower.refreshAll_presetsCurrent s.curves hlength
  have hrun' : (u.tower t).run = filled := by rw [hdone]
  have hconfig' : (u.tower t).config = tw.config := by rw [hdone]
  have hz' : (u.tower t).z = tw.z := congrArg (fun c => c.geometry.z) hconfig'
  have hcoverage : (u.tower t).run.coverage = List.replicate (u.tower t).z (some e) := by rw [hrun', hz']
  have hkeys : ∀ k : Nat, (u.tower t).keys[k]? = tw.keys[k]?.map fun key =>
      if k ∈ stored.allKeys then stored.presetKey s.curves k key else key := fun k => by
    rw [hdone]
    exact List.getElem?_mapIdx
  have hcomplete' : (u.tower t).run.complete = true := hrun' ▸ hcomplete
  obtain ⟨hall, hsweep⟩ := hcurrent.1 hcomplete'
  have hsame : SameBut t s u := (s.setTower_sameBut t stored).refresh _ true
  have hfaults : u.faults = if stored.holdsAny s.curves stored.allKeys then s.faults.log .curveIncomplete (.tower t) s.sheets
      else s.faults := by
    rw [hu, State.refreshTower, State.refresh_faults, State.tower_setTower_same]
    rfl
  have hholds := Tower.holdsAny_allKeys_iff s.curves stored
  refine ⟨_, hexec, hsame.sendReply _ _, ?_⟩
  simp only [State.sendReply_tower, State.sendReply_port_same, State.sendReply_faults]
  refine ⟨?_, rfl, hrun', ?_, ?_, ?_, ?_, ?_, ?_, fun k key hkey => ?_, fun hheld => ?_, fun hnone => ?_⟩
  · rw [hdone]
    exact ⟨rfl, rfl, rfl, rfl, rfl, rfl⟩
  · rw [hdone]
    exact hdark
  · rw [hdone]
  · rw [hdone]
  · rw [hdone]
  · rw [hdone]
  · rw [hsweep, Tower.presetSweep_of_replicate hcoverage (hconfig' ▸ hconfig) (by rw [hdone, List.length_mapIdx, hlength]; rfl)
      ((Tower.presetsCurrent_iff ..).mp hcurrent).1.effective hcomplete', hconfig']
  · have hk : k < tw.z := hlength ▸ (List.getElem?_eq_some_iff.mp hkey).1
    have hmem : k ∈ stored.allKeys := List.mem_range.mpr hk
    have hkey' : (u.tower t).keys[k]? = some (stored.presetKey s.curves k key) := by
      rw [hkeys, hkey]
      simp [hmem]
    have heffective : stored.effectiveCoverage k = e := Tower.effectiveCoverage_of_replicate (tw := stored) rfl hconfig hk
    rw [Tower.presetKey_of_complete hcomplete, heffective] at hkey'
    refine ⟨_, hkey', rfl, rfl, rfl, rfl, rfl, fun husable => ?_, fun hheld hnone => ?_⟩
    · have htarget := Tower.presetTarget_of_usable (tw := stored) (curves := s.curves) (k := k) husable key
      rw [heffective] at htarget
      exact htarget
    · have htarget := Tower.presetTarget_of_incomplete (tw := stored) (curves := s.curves) (k := k) hheld key
      rw [hnone] at htarget
      exact htarget
  · rw [hfaults, if_pos (hholds.mpr ⟨hcomplete, hheld⟩)]
  · rw [hfaults, if_neg fun h => ?_]
    obtain ⟨-, k, hk, hlt⟩ := hholds.mp h
    exact absurd (hnone k hk) (Nat.not_le.mpr hlt)

end Sys2Proof.Machine

/-! SUPPORT. The reading requests and the collection of faults, field by field (R165, R170, R171, R172). -/

namespace Sys2Proof.Machine

/-! ### Fields as sent (R172) -/

theorem flagByte_toNat (b : Bool) : (flagByte b).toNat = if b then 1 else 0 := by cases b <;> rfl

theorem bytes16_toNat {n : Nat} (h : n ≤ 65535) : (BitVec.ofNat 8 (n / 256)).toNat * 256 + (BitVec.ofNat 8 n).toNat = n := by
  simp only [BitVec.toNat_ofNat]
  omega

theorem bytesTag_eq (tag : Option (BitVec 32)) : bytesTag tag = flagByte tag.isSome :: bytes32 (tag.getD 0#32) := by
  cases tag <;> rfl

theorem bytesOption16_eq (o : Option Nat) : bytesOption16 o = bytes16 (o.getD 65535) := by cases o <;> rfl

theorem bytesPosition_eq (o : Option Nat) : bytesPosition o = flagByte o.isSome :: bytes16 (o.getD 0) := by cases o <;> rfl

theorem byteOption_eq (o : Option Nat) : byteOption o = byteOf (o.getD 255) := by cases o <;> rfl

theorem getD_le {o : Option Nat} {d b : Nat} (h : ∀ n ∈ o, n ≤ b) (hd : d ≤ b) : o.getD d ≤ b := by
  cases o with
  | none => exact hd
  | some n => exact h n rfl

theorem Slot.state_code (sl : Slot) : sl.state.code.toNat =
    if sl.coverage.all Option.isNone then 0 else if sl.coverage.all Option.isSome then 2 else 1 := by
  unfold Slot.state
  split
  · rfl
  · split <;> rfl

theorem Tower.countIn_eq_filter (tw : Tower) (d : DriveState) :
    tw.countIn d = (tw.keys.filter fun key => key.drive.state = d).length := by
  rw [Tower.countIn, List.countP_eq_length_filter]
  congr 1

theorem Tower.countIn_le (tw : Tower) (d : DriveState) : tw.countIn d ≤ tw.keys.length := List.countP_le_length

theorem Tower.curveIncompleteMark_eq (curves : Vector (List Point) 16) (tw : Tower) : tw.curveIncompleteMark curves =
    decide ((curves.get tw.config.metering.curveA).length < 2 ∨ (curves.get tw.config.metering.curveB).length < 2) := by
  rw [Bool.eq_iff_iff]
  simp [Tower.curveIncompleteMark, usable]

/-! ### TOWER STATUS (R170) -/

theorem State.earlyRefusal_towerStatus (s : State) (p : MasterPort) (b : Byte) : s.earlyRefusal p .towerStatus [b] = none :=
  State.earlyRefusal_of_no_member (portRank_le_two p) rfl rfl

/-- Settles O7. -/
theorem towerStatusReturnsRecord : Obligations.TowerStatusReturnsRecord := by
  refine ⟨fun p t b s hb hfree => ?_, fun p b s hb hfree => ?_⟩
  · intro tw slotByte hkeys hqueue hmoving hsweep hlast happlied hsettle hdeadband hstate
    have htake : takeTowerStatus p [b] s = .ok (s, .ok, towerRecord s.curves t tw) := by
      rw [takeTowerStatus, readTower_of_toNat hb]
    have hrecord : towerRecord s.curves t tw =
        [byteOf t.val, tw.state.code, tw.run.state.code, flagByte tw.run.mirrored, flagByte tw.run.tag.isSome] ++
        bytes32 (tw.run.tag.getD 0#32) ++ [tw.next.state.code, flagByte tw.next.mirrored, flagByte tw.next.tag.isSome] ++
        bytes32 (tw.next.tag.getD 0#32) ++
        [byteOf tw.queue.length, byteOf tw.moving, byteOf (tw.countIn .faulted), byteOf (tw.countIn .unknown),
          byteOf (tw.sweep.getD 255), byteOf (tw.lastSweep.getD 255)] ++ bytes16 tw.counters.applied ++
        bytes16 tw.counters.settleSkipped ++ bytes16 tw.counters.deadbandSkipped ++ bytes16 tw.counters.stateSkipped ++
        [flagByte (tw.curveIncompleteMark s.curves)] := by
      simp only [towerRecord, slotStatus, bytesTag_eq, byteOption_eq]
      rfl
    have ht : t.val < 256 := by omega
    have hbyte : ∀ o : Option Nat, (∀ v ∈ o, v ≤ 100) → (byteOf (o.getD 255)).toNat = o.getD 255 := fun o ho =>
      byteOf_toNat (Nat.lt_succ_of_le (getD_le (fun v hv => Nat.le_trans (ho v hv) (by decide)) (Nat.le_refl _)))
    have hcount : ∀ d, (byteOf (tw.countIn d)).toNat = (tw.keys.filter fun key => key.drive.state = d).length := fun d => by
      have := tw.countIn_le d
      rw [byteOf_toNat (by omega), Tower.countIn_eq_filter]
    refine ⟨_, exec_of_ok (fn := .towerStatus) hfree (s.earlyRefusal_towerStatus p b) htake, ?_⟩
    rw [hrecord]
    simp only [bytes32, bytes16, List.cons_append, List.nil_append]
    refine ⟨rfl, rfl, ⟨_, rfl, byteOf_toNat ht⟩, ⟨_, rfl, ?_⟩, ⟨_, rfl, tw.run.state_code⟩, ⟨_, rfl, flagByte_toNat _⟩,
      ⟨_, rfl, flagByte_toNat _⟩, ⟨_, _, _, _, rfl, rfl, rfl, rfl, bytes32_toNat _⟩, ⟨_, rfl, tw.next.state_code⟩,
      ⟨_, rfl, flagByte_toNat _⟩, ⟨_, rfl, flagByte_toNat _⟩, ⟨_, _, _, _, rfl, rfl, rfl, rfl, bytes32_toNat _⟩,
      ⟨_, rfl, byteOf_toNat (by omega)⟩, ⟨_, rfl, byteOf_toNat (by omega)⟩, ⟨_, rfl, hcount _⟩, ⟨_, rfl, hcount _⟩,
      ⟨_, rfl, hbyte _ hsweep⟩, ⟨_, rfl, hbyte _ hlast⟩, ⟨_, _, rfl, rfl, bytes16_toNat happlied⟩,
      ⟨_, _, rfl, rfl, bytes16_toNat hsettle⟩, ⟨_, _, rfl, rfl, bytes16_toNat hdeadband⟩, ⟨_, _, rfl, rfl, bytes16_toNat hstate⟩,
      ⟨_, rfl, ?_⟩⟩
    · cases tw.state <;> rfl
    · rw [flagByte_toNat, Tower.curveIncompleteMark_eq]
      simp only [decide_eq_true_eq]
      rfl
  · refine exec_of_error (fn := .towerStatus) (r := .range) hfree (s.earlyRefusal_towerStatus p b) ?_
    simp only [takeFunction, takeTowerStatus, readTower_none hb]

/-! ### Records of one size in a body -/

theorem field8_append (front body : List Byte) (i n : Nat) : Field8 (front ++ body) (front.length + i) n ↔ Field8 body i n := by
  simp only [field8_iff, List.getElem?_append_right (Nat.le_add_right _ _), Nat.add_sub_cancel_left]

theorem field32_append (front body : List Byte) (i : Nat) (w : BitVec 32) :
    Field32 (front ++ body) (front.length + i) w ↔ Field32 body i w := by
  simp only [Field32, Nat.add_assoc, List.getElem?_append_right (Nat.le_add_right _ _), Nat.add_sub_cancel_left]

/-- The i-th of the records of one size that follow the front of a body. -/
theorem exists_record {α : Type} {f : α → List Byte} {n : Nat} (hf : ∀ a, (f a).length = n) (front : List Byte) {l : List α} {i : Nat}
    {a : α} (h : l[i]? = some a) :
    ∃ before rest : List Byte, front ++ l.flatMap f = before ++ (f a ++ rest) ∧ before.length = front.length + n * i := by
  obtain ⟨hlt, rfl⟩ := List.getElem?_eq_some_iff.mp h
  refine ⟨front ++ (l.take i).flatMap f, (l.drop (i + 1)).flatMap f, ?_, ?_⟩
  · have hsplit : l.flatMap f = (l.take i ++ l[i] :: l.drop (i + 1)).flatMap f := by
      rw [← List.drop_eq_getElem_cons hlt, List.take_append_drop]
    rw [hsplit, List.flatMap_append, List.flatMap_cons, List.append_assoc]
  · have hsize : ∀ l : List α, (l.flatMap f).length = n * l.length := fun l => by
      induction l with
      | nil => simp
      | cons b l ih => simp [ih, hf, Nat.mul_succ, Nat.add_comm]
    rw [List.length_append, hsize, List.length_take, Nat.min_eq_left (Nat.le_of_lt hlt)]

theorem fieldSigned16_of_bytes {body : List Byte} {i : Nat} {v : Int} (hlo : -32768 ≤ v) (hhi : v ≤ 32767)
    (h0 : body[i]? = (bytesSigned16 v)[0]?) (h1 : body[i + 1]? = (bytesSigned16 v)[1]?) : FieldSigned16 body i v := by
  obtain ⟨a, b, hbytes, hv⟩ := bytesSigned16_eq hlo hhi
  rw [hbytes] at h0 h1
  exact ⟨a, b, h0, h1, by rw [← hv, signed16_eq]⟩

/-! ### KEY STATUS (R171) -/

theorem keyRecordBytes_eq (key : KeyRec) : keyRecordBytes key =
    [key.drive.state.code, byteOf ((key.drive.faultKind.map fun f => f.kind.code).getD 255), flagByte key.drive.position.isSome] ++
    (bytes16 (key.drive.position.getD 0) ++ (bytes16 ((key.target.map Target.opening).getD 65535) ++
    (bytes16 ((key.target.map Target.steps).getD 65535) ++
    ((key.target.map fun g => g.mark.code).getD 0xFF#8 :: (bytes16 (key.effective.getD 65535) ++
    (bytesSigned16 key.trim ++ (bytesSigned16 key.acc ++ bytes32 key.settleUntil))))))) := by
  simp only [keyRecordBytes, byteOption_eq, bytesPosition_eq, bytesOption16_eq, KeyRec.steps, List.append_assoc, List.cons_append,
    List.nil_append]
  cases key.target <;> rfl

theorem length_keyRecordBytes (key : KeyRec) : (keyRecordBytes key).length = 20 := by
  rw [keyRecordBytes_eq]
  rfl

theorem State.earlyRefusal_keyStatus (s : State) (p : MasterPort) (b first count : Byte) :
    s.earlyRefusal p .keyStatus [b, first, count] = none :=
  State.earlyRefusal_of_no_member (portRank_le_two p) rfl rfl

/-- Settles O8. -/
theorem keyStatusReturnsRecords : Obligations.KeyStatusReturnsRecords := by
  refine ⟨fun p t b first count s hb hfree hlo hhi hz hlength hsound => ?_, fun p b first count s hfree hbad => ?_⟩
  · have htake : takeKeyStatus p [b, first, count] s = .ok (s, .ok, [b, first, count] ++
        (((s.tower t).keys.drop first.toNat).take count.toNat).flatMap keyRecordBytes) := by
      simp only [takeKeyStatus, readTower_of_toNat hb, if_pos (And.intro hlo (And.intro hhi hz))]
    refine ⟨_, exec_of_ok (fn := .keyStatus) hfree (s.earlyRefusal_keyStatus p b first count) htake, ?_, rfl,
      fun i key hi hkey => ?_⟩
    · have htaken : (((s.tower t).keys.drop first.toNat).take count.toNat).length = count.toNat := by
        rw [List.length_take, List.length_drop, hlength]
        omega
      simp only [List.length_cons, List.length_append, List.length_flatMap, length_keyRecordBytes, List.map_const', List.sum_replicate,
        htaken, List.length_nil, smul_eq_mul]
      omega
    · have hi' : (((s.tower t).keys.drop first.toNat).take count.toNat)[i]? = some key := by
        rw [List.getElem?_take_of_lt hi, List.getElem?_drop, hkey]
      obtain ⟨before, rest, hbody, hbefore⟩ := exists_record length_keyRecordBytes [0x84#8, 0x00#8, b, first, count] hi'
      obtain ⟨hcorrections, hposition, htarget, heffective⟩ := hsound key (List.mem_of_getElem? hkey)
      obtain ⟨htrim, htrim', hacc, hacc'⟩ := hcorrections
      intro o
      have ho : o = before.length := hbefore.symm
      have hreply : (replyByte MasterFn.keyStatus.code :: Result.ok.code :: ([b, first, count] ++
          (((s.tower t).keys.drop first.toNat).take count.toNat).flatMap keyRecordBytes)) =
          before ++ (keyRecordBytes key ++ rest) := hbody
      rw [hreply, ho, keyRecordBytes_eq]
      refine ⟨(field8_append before _ 0 _).mpr ⟨_, rfl, ?_⟩, (field8_append before _ 1 _).mpr ⟨_, rfl, ?_⟩,
        (field8_append before _ 2 _).mpr ⟨_, rfl, flagByte_toNat _⟩, (field16_append before _ 3 _).mpr ⟨_, _, rfl, rfl, bytes16_toNat ?_⟩,
        (field16_append before _ 5 _).mpr ⟨_, _, rfl, rfl, bytes16_toNat ?_⟩,
        (field16_append before _ 7 _).mpr ⟨_, _, rfl, rfl, bytes16_toNat ?_⟩,
        (field8_append before _ 9 _).mpr ⟨_, rfl, ?_⟩, (field16_append before _ 10 _).mpr ⟨_, _, rfl, rfl, bytes16_toNat ?_⟩,
        ?_, ?_, (field32_append before _ 16 _).mpr ⟨_, _, _, _, rfl, rfl, rfl, rfl, bytes32_toNat _⟩⟩
      · cases key.drive <;> rfl
      · cases key.drive.faultKind with
        | none => rfl
        | some kind => cases kind <;> rfl
      · exact getD_le hposition (by decide)
      · exact getD_le (b := 65535) (fun n hn => by
          obtain ⟨g, hg, rfl⟩ := Option.map_eq_some_iff.mp hn
          have := (htarget g hg).1
          omega) (by decide)
      · exact getD_le (b := 65535) (fun n hn => by
          obtain ⟨g, hg, rfl⟩ := Option.map_eq_some_iff.mp hn
          have := (htarget g hg).2
          omega) (by decide)
      · cases key.target with
        | none => rfl
        | some g => cases hmark : g.mark <;> simp [hmark, ClampMark.code]
      · exact getD_le (b := 65535) (fun n hn => Nat.le_trans (heffective n hn) (by decide)) (by decide)
      · exact (fieldSigned16_append before _ 12 _).mpr (fieldSigned16_of_bytes (by omega) (by omega) rfl rfl)
      · exact (fieldSigned16_append before _ 14 _).mpr (fieldSigned16_of_bytes (by omega) (by omega) rfl rfl)
  · refine exec_of_error (fn := .keyStatus) (r := .range) hfree (s.earlyRefusal_keyStatus p b first count) ?_
    simp only [takeFunction, takeKeyStatus]
    have hnot : ∀ t, readTower b = some t →
        ¬(1 ≤ count.toNat ∧ count.toNat ≤ 12 ∧ first.toNat + count.toNat ≤ (s.tower t).z) := fun t ht hall => by
      obtain ⟨hlo, hhi, hz⟩ := hall
      rcases hbad with hb | hcount | hcount | ⟨t', hb, hout⟩
      · rw [readTower_none hb] at ht
        cases ht
      · omega
      · omega
      · obtain rfl : t' = t := Option.some.inj ((readTower_of_toNat hb).symm.trans ht)
        omega
    cases ht : readTower b with
    | none => rfl
    | some t => exact if_neg (hnot t ht)

/-! ### FAULTS TAKE (R165, R177) -/

theorem sheetAge_eq (a b : Sheet) : sheetAge a b = min 65535 ((a.toNat + 2 ^ 32 - b.toNat) % 2 ^ 32) := by
  have ha := a.isLt
  have hb := b.isLt
  rw [sheetAge, BitVec.toNat_sub]
  congr 1
  omega

theorem length_faultRecordBytes (sheet : Sheet) (r : FaultRecord) : (faultRecordBytes sheet r).length = 7 := rfl

theorem FaultKind.code_le (kind : FaultKind) : kind.code ≤ 8 := by cases kind <;> decide

theorem originCode_le (o : Origin) : originCode o ≤ 14 := by
  cases o with
  | key t k =>
    have := t.isLt
    exact Nat.le_of_lt (Nat.lt_trans this (by decide))
  | tower t =>
    have := t.isLt
    exact Nat.le_of_lt (Nat.lt_trans this (by decide))
  | port p => cases p <;> decide

theorem State.earlyRefusal_faultsTake (s : State) (n : Byte) : s.earlyRefusal .console .faultsTake [n] = none :=
  State.earlyRefusal_of_no_member (Nat.zero_le _) rfl rfl

/-- Settles O10. -/
theorem faultsTakeReturnsOldestFirst : Obligations.FaultsTakeReturnsOldestFirst := by
  refine ⟨?_, fun n s hfree hbad => ?_⟩
  · intro n s hfree hlo hhi hsound hkeys taken left
    obtain ⟨hlength, -, hcounts⟩ := hsound
    have hfull : (if taken.isEmpty then s.faults.full else false) = if taken = [] then s.faults.full else false := by
      cases taken <;> rfl
    have htake : takeFaultsTake .console [n] s = .ok ({ s with faults :=
        { records := left, full := if taken = [] then s.faults.full else false } }, .ok,
        [flagByte s.faults.full, byteOf taken.length, byteOf left.length] ++ bytes32 s.sheets ++
          taken.flatMap (faultRecordBytes s.sheets)) := by
      rw [← hfull]
      exact if_pos ⟨hlo, hhi⟩
    have htaken : taken.length ≤ 32 := Nat.le_trans (List.length_take_le _ _) hhi
    have hleft : left.length ≤ 32 := Nat.le_trans (by simp [left]) hlength
    refine ⟨_, exec_of_ok (fn := .faultsTake) hfree (s.earlyRefusal_faultsTake n) htake, ?_, rfl, ⟨_, rfl, flagByte_toNat _⟩,
      ⟨_, rfl, byteOf_toNat (by omega)⟩, ⟨_, rfl, byteOf_toNat (by omega)⟩, ⟨_, _, _, _, rfl, rfl, rfl, rfl, bytes32_toNat _⟩,
      fun i r hr => ?_⟩
    · simp only [List.length_cons, List.length_append, List.length_flatMap, length_faultRecordBytes, List.map_const',
        List.sum_replicate, List.length_nil, smul_eq_mul, bytes32]
      omega
    · obtain ⟨before, rest, hbody, hbefore⟩ := exists_record (length_faultRecordBytes s.sheets)
        ([0x86#8, 0x00#8, flagByte s.faults.full, byteOf taken.length, byteOf left.length] ++ bytes32 s.sheets) hr
      have hmem : r ∈ s.faults.records := List.mem_of_mem_take (List.mem_of_getElem? hr)
      obtain ⟨-, hcount⟩ := hcounts r hmem
      have hkind := r.kind.code_le
      have horigin := originCode_le r.origin
      have hage : ∀ a : Sheet, sheetAge s.sheets a ≤ 65535 := fun a => Nat.min_le_left _ _
      intro o
      have ho : o = before.length := hbefore.symm
      have hreply : (replyByte MasterFn.faultsTake.code :: Result.ok.code ::
          ([flagByte s.faults.full, byteOf taken.length, byteOf left.length] ++ bytes32 s.sheets ++
            taken.flatMap (faultRecordBytes s.sheets))) = before ++ (faultRecordBytes s.sheets r ++ rest) := hbody
      rw [hreply, ho, ← sheetAge_eq, ← sheetAge_eq]
      refine ⟨(field8_append before _ 0 _).mpr ⟨_, rfl, ?_⟩, (field8_append before _ 1 _).mpr ⟨_, rfl, ?_⟩,
        (field8_append before _ 2 _).mpr ⟨_, rfl, byteOf_toNat (by omega)⟩,
        (field16_append before _ 3 _).mpr ⟨_, _, rfl, rfl, bytes16_toNat (hage _)⟩,
        (field16_append before _ 5 _).mpr ⟨_, _, rfl, rfl, bytes16_toNat (hage _)⟩⟩
      · rw [byteOf_toNat (by omega), Nat.mul_comm]
        cases r.origin with
        | key t k => rfl
        | tower t => rfl
        | port p => cases p <;> rfl
      · cases hr' : r.origin with
        | key t k => exact byteOf_toNat (Nat.lt_trans (hkeys r hmem t k hr') (by decide))
        | tower t => rfl
        | port p => rfl
  · refine exec_of_error (fn := .faultsTake) (r := .range) hfree (s.earlyRefusal_faultsTake n) ?_
    exact if_neg (by omega)

end Sys2Proof.Machine

/-! SUPPORT. Stores through the write context: the RUN-slot restriction and ZONES WRITE (R21, R29, R30, R31). -/

namespace Sys2Proof.Machine

/-! ### The RUN slot of a running tower (R21) -/

theorem Tower.mayStore_run_of_running {tw : Tower} (h : tw.state = .presetting ∨ tw.state = .printing) :
    tw.mayStore .run = false := by
  rcases h with h | h <;> simp [Tower.mayStore, h]

theorem towerMember_of_tower {b : Byte} {t : TowerIx} (hb : b.toNat = t.val) (args : List Byte) :
    towerMember (b :: args) = some t.val := by
  simp [towerMember, readTower_of_toNat hb]

section Stores

variable {s : State} {p : MasterPort} (hp : p ≠ .scanner)
include hp

theorem State.earlyRefusal_zones {fn : MasterFn} (hfn : fn ∈ [MasterFn.zonesWrite, .zonesFill]) {args : List Byte}
    (hlength : LayoutLength fn args.length) (hpermits : s.Permits p (s.port p).ctx.tower.val) : s.earlyRefusal p fn args = none := by
  have hfits := (lengthFits_iff fn args.length).mpr hlength
  simp only [List.mem_cons, List.not_mem_nil, or_false] at hfn
  rcases hfn with rfl | rfl <;> exact State.earlyRefusal_of_permits (portRank_le_one hp) hfits rfl hpermits

theorem State.earlyRefusal_slotClear {t : TowerIx} {b : Byte} (hb : b.toNat = t.val) (hpermits : s.Permits p t.val) (n : Byte) :
    s.earlyRefusal p .slotClear [b, n] = none :=
  State.earlyRefusal_of_permits (portRank_le_one hp) rfl (towerMember_of_tower hb [n]) hpermits

theorem State.earlyRefusal_slotTagSet {t : TowerIx} {b : Byte} (hb : b.toNat = t.val) (hpermits : s.Permits p t.val)
    (n t3 t2 t1 t0 m : Byte) : s.earlyRefusal p .slotTagSet [b, n, t3, t2, t1, t0, m] = none :=
  State.earlyRefusal_of_permits (portRank_le_one hp) rfl (towerMember_of_tower hb [n, t3, t2, t1, t0, m]) hpermits

end Stores

theorem readFlag_of_le {m : Byte} (h : m.toNat ≤ 1) : readFlag m = some (decide (m.toNat = 1)) := by
  have hm : m = flagByte (decide (m.toNat = 1)) := BitVec.eq_of_toNat_eq (by
    rw [flagByte_toNat]
    simp only [decide_eq_true_eq]
    split <;> omega)
  rw [hm, readFlag_flagByte, ← hm]

/-- Settles O26: each of the four functions asks whether the slot may be written before it stores. -/
theorem runSlotIsNotWrittenWhileRunning : Obligations.RunSlotIsNotWrittenWhileRunning := by
  refine ⟨fun fn p args s hfn hp hfree hlength hpermits hslot hrunning => ?_, fun p t b s hp hfree hb hpermits hrunning => ?_⟩
  · have hno := Tower.mayStore_run_of_running hrunning
    refine exec_of_error (r := .state) hfree (State.earlyRefusal_zones hp hfn hlength hpermits) ?_
    simp only [List.mem_cons, List.not_mem_nil, or_false] at hfn
    rcases hfn with rfl | rfl
    · simp [takeFunction, takeZonesWrite, hslot, hno]
    · obtain ⟨a, b, rfl⟩ := List.length_eq_two.mp hlength
      simp [takeFunction, takeZonesFill, hslot, hno]
  · have hno := Tower.mayStore_run_of_running hrunning
    have hrun : readSlot 0x00#8 = some .run := rfl
    refine ⟨exec_of_error (fn := .slotClear) (r := .state) hfree (State.earlyRefusal_slotClear hp hb hpermits _) ?_,
      fun t3 t2 t1 t0 m hm =>
        exec_of_error (fn := .slotTagSet) (r := .state) hfree (State.earlyRefusal_slotTagSet hp hb hpermits _ _ _ _ _ _) ?_⟩
    · simp [takeFunction, takeSlotClear, readTower_of_toNat hb, hrun, hno]
    · simp [takeFunction, takeSlotTagSet, readTower_of_toNat hb, hrun, readFlag_of_le hm, hno]

/-! ### The pointer in its window (R23, R30) -/

/-- How many values the window takes from a zone on. -/
def WriteContext.room (c : WriteContext) (q : Nat) : Nat := if c.direction = .up then c.last + 1 - q else q + 1 - c.first

/-- The zone that the i-th value from a zone on reaches. -/
def WriteContext.zoneAt (c : WriteContext) (q i : Nat) : Nat := if c.direction = .up then q + i else q - i

section Pointer

variable {c : WriteContext} {q : Nat} (hq : c.first ≤ q ∧ q ≤ c.last)
include hq

theorem WriteContext.advance_eq : c.advance q = if c.room q = 1 then none else some (c.zoneAt q 1) := by
  unfold WriteContext.advance WriteContext.room WriteContext.zoneAt
  cases c.direction with
  | up =>
    simp only [if_true]
    by_cases h : c.last ≤ q
    · rw [if_pos h, if_pos (by omega)]
    · rw [if_neg h, if_neg (by omega)]
  | down =>
    simp only [reduceCtorEq, if_false]
    by_cases h : q ≤ c.first
    · rw [if_pos h, if_pos (by omega)]
    · rw [if_neg h, if_neg (by omega)]

theorem WriteContext.room_pos : 0 < c.room q := by
  unfold WriteContext.room
  split <;> omega

theorem WriteContext.zoneAt_one_mem (h : c.room q ≠ 1) : c.first ≤ c.zoneAt q 1 ∧ c.zoneAt q 1 ≤ c.last := by
  unfold WriteContext.room at h
  unfold WriteContext.zoneAt
  split at h <;> simp only [*, if_true, if_false] <;> omega

theorem WriteContext.room_zoneAt_one (h : c.room q ≠ 1) : c.room (c.zoneAt q 1) = c.room q - 1 := by
  unfold WriteContext.room at *
  unfold WriteContext.zoneAt
  split <;> simp_all <;> omega

theorem WriteContext.zoneAt_ne {i : Nat} (hi : 0 < i) (hlt : i < c.room q) : c.zoneAt q i ≠ q := by
  unfold WriteContext.room at hlt
  unfold WriteContext.zoneAt
  split at hlt <;> simp only [*, if_true, if_false] <;> omega

end Pointer

theorem WriteContext.zoneAt_succ (c : WriteContext) (q i : Nat) : c.zoneAt (c.zoneAt q 1) i = c.zoneAt q (i + 1) := by
  unfold WriteContext.zoneAt
  split <;> omega

theorem WriteContext.zoneAt_zero (c : WriteContext) (q : Nat) : c.zoneAt q 0 = q := by
  unfold WriteContext.zoneAt
  split <;> omega

/-! ### The stream of a ZONES WRITE (R30, R31) -/

/-- Values at an EXHAUSTED pointer are discarded. -/
theorem Stream.fold_exhausted (values : List Nat) {st : Stream} (h : st.ctx.pointer = none) : values.foldl Stream.value st = st := by
  induction values with
  | nil => rfl
  | cons v values ih =>
    have hstep : st.value v = st := by simp only [Stream.value, h]
    rw [List.foldl_cons, hstep, ih]

/-- The zone the pointer stands at takes the value where the mask has it. -/
theorem Stream.zone_value {st : Stream} {q : Nat} (h : st.ctx.pointer = some q) (hlt : q < st.slot.coverage.length) (v y : Nat) :
    (st.value v).slot.zone y =
      if y = q ∧ st.ctx.mask.getLsbD q = true then some (combine st.ctx.mode (st.slot.zone q) (min v 1000)) else st.slot.zone y := by
  simp only [Stream.value, h, WriteContext.masksIn, clampCoverage_eq]
  by_cases hmask : st.ctx.mask.getLsbD q = true
  · by_cases hy : y = q
    · subst hy
      simp [hmask, Slot.zone_store_same _ _ _ hlt]
    · simp [hmask, hy, Slot.zone_store_of_ne _ _ _ hy]
  · simp [hmask]

/-- The values reach the zones from the pointer on, one each, until the window is exhausted. -/
theorem Stream.fold_spec (values : List Nat) {st : Stream} {q : Nat} (h : st.ctx.pointer = some q)
    (hq : st.ctx.first ≤ q ∧ q ≤ st.ctx.last) (hlast : st.ctx.last < st.slot.coverage.length) :
    let c := st.ctx
    let out := values.foldl Stream.value st
    let count := min values.length (c.room q)
    out.ctx = { c with pointer := if c.room q ≤ values.length then none else some (c.zoneAt q count) } ∧
      out.consumed = st.consumed + count ∧
      (∀ i v, i < count → values[i]? = some v → out.slot.zone (c.zoneAt q i) =
        if c.mask.getLsbD (c.zoneAt q i) then some (combine c.mode (st.slot.zone (c.zoneAt q i)) (min v 1000))
        else st.slot.zone (c.zoneAt q i)) ∧
      ∀ y, (∀ i, i < count → y ≠ c.zoneAt q i) → out.slot.zone y = st.slot.zone y := by
  induction values generalizing st q with
  | nil =>
    have hroom := WriteContext.room_pos hq
    refine ⟨?_, by simp, fun i v hi => absurd hi (by simp), fun y _ => rfl⟩
    rw [List.length_nil, if_neg (Nat.not_le.mpr hroom), Nat.zero_min, WriteContext.zoneAt_zero, ← h]
    rfl
  | cons v values ih =>
    intro c out count
    have hroom : 0 < c.room q := WriteContext.room_pos hq
    have hctx : (st.value v).ctx = { c with pointer := c.advance q } := by simp only [Stream.value, h, c]
    have hconsumed : (st.value v).consumed = st.consumed + 1 := by simp only [Stream.value, h]
    have hlength : (st.value v).slot.coverage.length = st.slot.coverage.length := (st.value_leaves v).2.2
    have hzone := Stream.zone_value h (Nat.lt_of_le_of_lt hq.2 hlast) v
    have hfirst : (st.value v).slot.zone (c.zoneAt q 0) = if c.mask.getLsbD (c.zoneAt q 0) then
        some (combine c.mode (st.slot.zone (c.zoneAt q 0)) (min v 1000)) else st.slot.zone (c.zoneAt q 0) := by
      rw [WriteContext.zoneAt_zero, hzone]
      simp [c]
    rw [WriteContext.advance_eq hq] at hctx
    by_cases hone : c.room q = 1
    · have hout : out = st.value v := Stream.fold_exhausted values (by rw [hctx, if_pos hone])
      have hcount : count = 1 := by
        show min (values.length + 1) (c.room q) = 1
        omega
      rw [hout, hcount]
      refine ⟨?_, hconsumed, fun i v' hi hv => ?_, fun y hy => ?_⟩
      · rw [hctx, if_pos hone, if_pos (by rw [hone]; exact Nat.succ_le_succ (Nat.zero_le _))]
      · obtain rfl : i = 0 := by omega
        obtain rfl : v = v' := by simpa using hv
        exact hfirst
      · rw [hzone, if_neg fun hyq => hy 0 Nat.one_pos (by rw [WriteContext.zoneAt_zero]; exact hyq.1)]
    · rw [if_neg hone] at hctx
      have hwindow := WriteContext.zoneAt_one_mem hq hone
      have hshift : c.room (c.zoneAt q 1) = c.room q - 1 := WriteContext.room_zoneAt_one hq hone
      have hrooms : ∀ x, (st.value v).ctx.room x = c.room x := fun x => by
        rw [hctx]
        rfl
      have hzones : ∀ x i, (st.value v).ctx.zoneAt x i = c.zoneAt x i := fun x i => by
        rw [hctx]
        rfl
      have hmask : (st.value v).ctx.mask = c.mask := by rw [hctx]
      have hmode : (st.value v).ctx.mode = c.mode := by rw [hctx]
      obtain ⟨hctx', hconsumed', hvalues', hothers'⟩ := ih (st := st.value v) (q := c.zoneAt q 1) (by rw [hctx])
        (by rw [hctx]; exact hwindow) (by rw [hctx, hlength]; exact hlast)
      simp only [hrooms, hzones, hmask, hmode, hshift, WriteContext.zoneAt_succ]
        at hctx' hconsumed' hvalues' hothers'
      have hcount : count = min values.length (c.room q - 1) + 1 := by
        show min (values.length + 1) (c.room q) = _
        omega
      have hroomlt : ∀ i, i < min values.length (c.room q - 1) → i + 1 < c.room q := fun i hi => by omega
      rw [hcount]
      refine ⟨?_, ?_, fun i v' hi hv => ?_, fun y hy => ?_⟩
      · have hend : c.room q - 1 ≤ values.length ↔ c.room q ≤ (v :: values).length := by
          rw [List.length_cons]
          omega
        simp only [← hend]
        exact hctx'.trans (by rw [hctx])
      · exact hconsumed'.trans (by rw [hconsumed]; omega)
      · have haway : ∀ j, j + 1 < c.room q → (st.value v).slot.zone (c.zoneAt q (j + 1)) = st.slot.zone (c.zoneAt q (j + 1)) :=
          fun j hj => by rw [hzone, if_neg fun hyq => WriteContext.zoneAt_ne hq (Nat.succ_pos j) hj hyq.1]
        cases i with
        | zero =>
          obtain rfl : v = v' := by simpa using hv
          rw [← hfirst, WriteContext.zoneAt_zero]
          exact hothers' q fun j hj => (WriteContext.zoneAt_ne hq (Nat.succ_pos j) (hroomlt j hj)).symm
        | succ j =>
          have hj : j < min values.length (c.room q - 1) := Nat.lt_of_succ_lt_succ hi
          rw [← haway j (hroomlt j hj)]
          exact hvalues' j v' hj (by simpa using hv)
      · have hq' : y ≠ q := by
          have := hy 0 (Nat.succ_pos _)
          rwa [WriteContext.zoneAt_zero] at this
        rw [← show (st.value v).slot.zone y = st.slot.zone y by rw [hzone, if_neg fun h => hq' h.1]]
        exact hothers' y fun j hj => hy (j + 1) (Nat.succ_lt_succ hj)

/-! ### ZONES WRITE (R29) -/

theorem readWords_flatMap {values : List Nat} (h : ∀ v ∈ values, v < 65536) : readWords (values.flatMap bytes16) = values := by
  induction values with
  | nil => rfl
  | cons v values ih =>
    have hrest := ih fun w hw => h w (List.mem_cons_of_mem v hw)
    rw [List.flatMap_cons, bytes16, List.cons_append, List.cons_append, List.nil_append, readWords, hrest,
      be16_bytes (h v List.mem_cons_self)]

theorem length_flatMap_bytes16 (values : List Nat) : (values.flatMap bytes16).length = 2 * values.length := by
  induction values with
  | nil => rfl
  | cons v values ih =>
    rw [List.flatMap_cons, List.length_append, ih, List.length_cons]
    simp only [bytes16, List.length_cons, List.length_nil]
    omega

theorem changedZones_self (l : List (Option Nat)) : changedZones l l = [] := by simp [changedZones]

/-- A slot stored as it was changes nothing (R22). -/
theorem State.storeSlot_self (s : State) (t : TowerIx) (n : SlotName) : s.storeSlot t n ((s.tower t).slot n) = s := by
  cases n with
  | next => exact s.setTower_self t
  | run =>
    have hsame : s.setTower t ((s.tower t).setSlot .run ((s.tower t).slot .run)) = s := s.setTower_self t
    simp [State.storeSlot, hsame, State.handOnCoverage, changedZones_self]

theorem anyClamped_eq (values : List Nat) : anyClamped values = decide (∃ v ∈ values, 1000 < v) := by
  rw [Bool.eq_iff_iff]
  simp [anyClamped]

/-- A permitted ZONES WRITE stores what its stream leaves (R29). -/
theorem exec_zonesWrite_of_permits {p : MasterPort} {values : List Nat} {s : State} (hp : p ≠ .scanner) (hfree : s.busy p = false)
    (hlo : 1 ≤ values.length) (hhi : values.length ≤ 48) (hvalues : ∀ v ∈ values, v < 65536)
    (hpermits : s.Permits p (s.port p).ctx.tower.val)
    (hstore : (s.tower (s.port p).ctx.tower).mayStore (s.port p).ctx.slot = true) :
    let c := (s.port p).ctx
    let out := values.foldl Stream.value { slot := (s.tower c.tower).slot c.slot, ctx := c, consumed := 0 }
    exec (.zonesWrite p (values.flatMap bytes16)) s =
      .next (((s.setCtx p out.ctx).storeSlot c.tower c.slot out.slot).sendReply p
        [0x92#8, if ∃ v ∈ values, 1000 < v then 0x01#8 else 0x00#8, byteOf out.consumed, byteOf (out.ctx.pointer.getD 255)]) := by
  intro c out
  have htake : takeZonesWrite p (values.flatMap bytes16) s =
      .ok ((s.setCtx p out.ctx).storeSlot c.tower c.slot out.slot, clampResult (decide (∃ v ∈ values, 1000 < v)),
        [byteOf out.consumed, byteOf (out.ctx.pointer.getD 255)]) := by
    simp only [takeZonesWrite, hstore, if_true, readWords_flatMap hvalues, anyClamped_eq, WriteContext.pointerByte, byteOption_eq]
    rfl
  have hlength : LayoutLength .zonesWrite (values.flatMap bytes16).length := by
    rw [length_flatMap_bytes16]
    exact ⟨values.length, hlo, hhi, rfl⟩
  refine (exec_of_ok (fn := .zonesWrite) hfree (State.earlyRefusal_zones hp (by simp) hlength hpermits) htake).trans ?_
  rw [code_clampResult]
  simp only [decide_eq_true_eq]
  rfl

/-- Settles O24. -/
theorem zonesWriteStreamsThroughPointer : Obligations.ZonesWriteStreamsThroughPointer := by
  intro p values s hp hfree c tw sl hlo hhi hvalues hpermits hstore hctx hlength hz result
  have hexec := exec_zonesWrite_of_permits hp hfree hlo hhi hvalues hpermits ((tw.mayStore_iff c.slot).mpr hstore)
  obtain ⟨hfl, hlast, hpointer⟩ := hctx
  refine ⟨fun hnone => ?_, fun q hq => ?_⟩
  · have hexhausted := Stream.fold_exhausted values (st := { slot := sl, ctx := c, consumed := 0 }) hnone
    have hctx : s.setCtx p c = s := by cases p <;> rfl
    rw [hexec, hexhausted]
    simp only [hnone, hctx]
    rw [State.storeSlot_self]
    rfl
  · intro room count zoneAt pointer c' body
    obtain ⟨hctx', hconsumed, hzones, hothers⟩ := Stream.fold_spec values (st := { slot := sl, ctx := c, consumed := 0 }) hq
      (hpointer q hq) (hlength.symm ▸ hlast)
    obtain ⟨hmirrored, htag, hlength'⟩ := Stream.fold_leaves values { slot := sl, ctx := c, consumed := 0 }
    set out := values.foldl Stream.value { slot := sl, ctx := c, consumed := 0 } with hout
    have hctx'' : out.ctx = c' := hctx'
    have hcount : out.consumed = count := hconsumed.trans (Nat.zero_add _)
    have hexec' : exec (.zonesWrite p (values.flatMap bytes16)) s =
        .next (((s.setCtx p c').storeSlot c.tower c.slot out.slot).sendReply p body) := by
      rw [← hctx'']
      refine hexec.trans ?_
      show Host.Outcome.next (((s.setCtx p out.ctx).storeSlot c.tower c.slot out.slot).sendReply p
        [0x92#8, result, byteOf out.consumed, byteOf (out.ctx.pointer.getD 255)]) = _
      rw [hcount, hctx'']
      rfl
    refine ⟨out.slot, hlength', htag, hmirrored, hzones, hothers, fun hnext => ?_, fun hrun => ?_⟩
    · rw [hexec', hnext, State.storeSlot, State.setCtx_tower]
      rfl
    · rw [hrun] at hexec'
      obtain ⟨htrun, htnext, htconfig⟩ := (s.setCtx p c').storeSlot_run_tower c.tower out.slot
      rw [State.setCtx_tower] at htnext htconfig
      have hsame : SameBut c.tower s (s.setCtx p c') := by simp [SameBut]
      refine ⟨_, hexec', by simpa using htrun, by simpa using htnext, by simpa using htconfig, by simp, by simp, by simp,
        fun r hr => ?_, (hsame.trans (State.storeSlot_sameBut ..)).sendReply p body⟩
      rw [State.sendReply_port_of_ne _ _ hr, State.storeSlot_port, State.setCtx_port_of_ne s c' hr]

end Sys2Proof.Machine

/-! SUPPORT. A refresh of every key that sends nothing: the line it leaves and the drive part of each key (R126, R128). -/

namespace Sys2Proof.Machine

section QuietRecord

variable (curves : Vector (List Point) 16) (tw : Tower) (k : Nat) (key : KeyRec)

/-- What a quiet refresh leaves of a key: its corrections, its settle window and where it stands. -/
theorem Tower.quietRecord_kept : (tw.quietRecord curves k key).trim = key.trim ∧ (tw.quietRecord curves k key).acc = key.acc ∧
    (tw.quietRecord curves k key).settleUntil = key.settleUntil ∧
    (tw.quietRecord curves k key).drive.position = key.drive.position := by
  refine ⟨Tower.presetKey_trim .., Tower.presetKey_acc .., Tower.presetKey_settleUntil .., ?_⟩
  unfold Tower.quietRecord
  dsimp only
  split
  · exact key.drive.toQueued_position
  · split
    · exact key.drive.toIdle_position
    · rfl

theorem Tower.quietRecord_target : (tw.quietRecord curves k key).target = (tw.presetKey curves k key).target := rfl

theorem Tower.quietRecord_steps : (tw.quietRecord curves k key).steps = (tw.presetKey curves k key).steps := rfl

variable {key}

theorem Tower.quietRecord_drive_of_idle {q : Nat} (h : key.drive = .idle q) : (tw.quietRecord curves k key).drive =
    if tw.state != .dark && key.joins (tw.presetKey curves k key) then .queued q else .idle q := by
  have hleaves : key.leaves (tw.presetKey curves k key) = false := KeyRec.leaves_eq_false (.inr (by simp [h, Drive.state]))
  simp only [Tower.quietRecord, hleaves, h, Drive.toQueued, Bool.false_eq_true, if_false]

theorem Tower.quietRecord_drive_of_queued {q : Nat} (h : key.drive = .queued q) : (tw.quietRecord curves k key).drive =
    if key.leaves (tw.presetKey curves k key) then .idle q else .queued q := by
  have hjoins : key.joins (tw.presetKey curves k key) = false := KeyRec.joins_eq_false (.inr (by simp [h, Drive.state]))
  simp only [Tower.quietRecord, hjoins, h, Drive.toIdle, Bool.and_false, Bool.false_eq_true, if_false]

theorem Tower.quietRecord_drive_of_other (h : key.drive.state ∈ [DriveState.unknown, .moving, .faulted]) :
    (tw.quietRecord curves k key).drive = key.drive := by
  have hnot : key.drive.state ≠ .idle ∧ key.drive.state ≠ .queued := by
    simp only [List.mem_cons, List.not_mem_nil, or_false] at h
    rcases h with h | h | h <;> simp [h]
  have hjoins : key.joins (tw.presetKey curves k key) = false := KeyRec.joins_eq_false (.inr hnot.1)
  have hleaves : key.leaves (tw.presetKey curves k key) = false := KeyRec.leaves_eq_false (.inr hnot.2)
  simp only [Tower.quietRecord, hjoins, hleaves, Bool.and_false, Bool.false_eq_true, if_false]

end QuietRecord

/-! ### Keys left away from their targets -/

section Line

variable (curves : Vector (List Point) 16) {tw : Tower} (hsound : tw.QueueSound)

theorem Tower.leftAway_iff {tw tw' : Tower} {k : Nat} {key : KeyRec} (hkey : tw.keys[k]? = some key) {o : Option Nat}
    (hsteps : tw'.keys[k]?.bind KeyRec.steps = o) :
    tw.leftAway tw' k = true ↔ ∃ q n, key.drive.position = some q ∧ o = some n ∧ n ≠ q := by
  unfold Tower.leftAway
  rw [hkey, hsteps, Option.bind_some]
  cases key.drive.position <;> cases o <;> simp

include hsound

/-- A QUEUED key of a sound queue stands away from the target it has. -/
theorem Tower.QueueSound.queued_steps {k q : Nat} {key : KeyRec} (hkey : tw.keys[k]? = some key) (hdrive : key.drive = .queued q) :
    ∃ n, key.steps = some n ∧ n ≠ q := by
  have h := hsound.2.2.2 key (List.mem_of_getElem? hkey)
  simp only [KeyRec.QueuedSound, hdrive] at h
  exact h

theorem Tower.QueueSound.queued_of_mem {k : Nat} (h : k ∈ tw.queue) : ∃ key q, tw.keys[k]? = some key ∧ key.drive = .queued q := by
  obtain ⟨key, q, -, hkey, hdrive, -⟩ := hsound.ready.2 k h
  exact ⟨key, q, hkey, hdrive⟩

/-- A QUEUED key leaves the queue exactly where the refresh does not leave it away from its target. -/
theorem Tower.leavesLine_eq {k : Nat} (hk : k ∈ tw.queue) {tw' : Tower}
    (hsteps : tw'.keys[k]?.bind KeyRec.steps = tw.keys[k]?.bind fun key => (tw.presetKey curves k key).steps) :
    tw.leavesLine curves k = !tw.leftAway tw' k := by
  obtain ⟨key, q, hkey, hdrive⟩ := hsound.queued_of_mem hk
  obtain ⟨n, hn, hne⟩ := hsound.queued_steps hkey hdrive
  rw [hkey, Option.bind_some] at hsteps
  have haway := Tower.leftAway_iff hkey hsteps
  have hposition : key.drive.position = some q := by rw [hdrive]; rfl
  rw [Tower.leavesLine_of_key curves hkey, Bool.eq_iff_iff, KeyRec.leaves_iff, Bool.not_eq_true', ← Bool.not_eq_true, haway, hposition]
  constructor
  · rintro ⟨q', hd, hnew, -⟩ ⟨q'', m, hq'', hm, hmne⟩
    obtain rfl : q = q' := Drive.queued.inj (hdrive.symm.trans hd)
    obtain rfl : q = q'' := Option.some.inj hq''
    rcases hnew with hnew | hnew <;> rw [hnew] at hm <;> cases hm
    exact hmne rfl
  · intro hnot
    refine ⟨q, hdrive, ?_, fun e => hnot ⟨q, n, rfl, e.trans hn, hne⟩⟩
    cases hnew : (tw.presetKey curves k key).steps with
    | none => exact .inl rfl
    | some m => exact .inr (congrArg some (Classical.byContradiction fun hm => hnot ⟨q, m, rfl, hnew, hm⟩))

omit hsound in
/-- A key joins the queue exactly where it is IDLE and the refresh changed its target steps and leaves it away from them. -/
theorem Tower.joinsLine_eq (hstate : tw.state ≠ .dark) (k : Nat) {tw' : Tower}
    (hsteps : tw'.keys[k]?.bind KeyRec.steps = tw.keys[k]?.bind fun key => (tw.presetKey curves k key).steps) :
    tw.joinsLine curves k =
      ((tw.keys[k]?.map fun key => key.drive.state) == some .idle && tw.leftAway tw' k && tw.stepsMoved tw' k == true) := by
  cases hkey : tw.keys[k]? with
  | none => simp [Tower.joinsLine, hkey]
  | some key =>
    rw [hkey, Option.bind_some] at hsteps
    have haway := Tower.leftAway_iff hkey hsteps
    have hmoved : tw.stepsMoved tw' k = true ↔ (tw.presetKey curves k key).steps ≠ key.steps := by
      simp [Tower.stepsMoved, hkey, hsteps]
    have hrunning : (tw.state != .dark) = true := by simp [hstate]
    rw [Tower.joinsLine_of_key curves hkey, hrunning, Bool.true_and, Bool.eq_iff_iff, KeyRec.joins_iff]
    simp only [Option.map_some, Bool.and_eq_true, beq_iff_eq, Option.some.injEq, haway, hmoved]
    constructor
    · rintro ⟨q, n, hdrive, hn, hne, hchanged⟩
      exact ⟨⟨by rw [hdrive]; rfl, q, n, by rw [hdrive]; rfl, hn, hne⟩, hchanged⟩
    · rintro ⟨⟨hidle, q, n, hq, hn, hne⟩, hchanged⟩
      cases hdrive : key.drive <;> rw [hdrive] at hidle hq <;> try cases hidle
      obtain rfl := Option.some.inj hq
      exact ⟨_, n, rfl, hn, hne, hchanged⟩

/-- The queue that a quiet refresh of every key leaves in a tower that is not DARK (R126, R128). -/
theorem Tower.quietRefresh_queue (hstate : tw.state ≠ .dark) (hlength : tw.keys.length = tw.z) {tw' : Tower}
    (hsteps : ∀ k : Nat, tw'.keys[k]?.bind KeyRec.steps = tw.keys[k]?.bind fun key => (tw.presetKey curves k key).steps) :
    (tw.quietRefresh curves tw.allKeys).queue = tw.lineAfter tw' := by
  have hleft : (tw.queue.filter fun k => !(decide (k ∈ tw.allKeys) && tw.leavesLine curves k)) = tw.queue.filter (tw.leftAway tw') :=
    List.filter_congr fun k hk => by
      obtain ⟨key, q, hkey, -⟩ := hsound.queued_of_mem hk
      have hmem : k ∈ tw.allKeys := List.mem_range.mpr (hlength ▸ (List.getElem?_eq_some_iff.mp hkey).1)
      simp [hmem, Tower.leavesLine_eq curves hsound hk (hsteps k)]
  have hjoined : tw.allKeys.filter (tw.joinsLine curves) = tw.idleAway tw' true :=
    List.filter_congr fun k _ => Tower.joinsLine_eq curves hstate k (hsteps k)
  show (tw.queue.filter fun k => !(decide (k ∈ tw.allKeys) && tw.leavesLine curves k)) ++ tw.allKeys.filter (tw.joinsLine curves) = _
  rw [hleft, hjoined]
  rfl

end Line

end Sys2Proof.Machine

/-! SUPPORT. SLOT CLEAR and SLOT TAG SET (R36, R37). -/

namespace Sys2Proof.Machine

/-! ### A refresh of every key, seen from what it leaves -/

/-- The Fault List after a refresh of every key (R62). -/
theorem State.refreshTower_faults (s : State) (t : TowerIx) : (s.refreshTower t).faults = s.faultsAfter t ((s.refreshTower t).tower t) := by
  obtain ⟨hconfig, hrun, -⟩ := Tower.refresh_leaves s.curves (s.tower t).allKeys_nodup true (s.tower t)
  have htower : (s.refreshTower t).tower t = (s.tower t).refresh s.curves (s.tower t).allKeys true := by
    rw [State.refreshTower_tower, if_pos rfl]
  have hz : ((s.refreshTower t).tower t).z = (s.tower t).z := by rw [htower, Tower.z, hconfig, Tower.z]
  have hcurve : ∀ k, ((s.refreshTower t).tower t).curveOf k = (s.tower t).curveOf k := fun k => by
    rw [htower, Tower.curveOf, hconfig]
    rfl
  have hiff := Tower.holdsAny_allKeys_iff s.curves (s.tower t)
  rw [State.faultsAfter, State.refreshTower, State.refresh_faults]
  refine if_congr (hiff.trans ?_) rfl rfl
  rw [← State.refreshTower, hz, htower, hrun]
  simp only [← htower, hcurve, List.mem_range]
  rfl

theorem State.refreshTower_sameBut (s : State) (t : TowerIx) : SameBut t s (s.refreshTower t) :=
  SameBut.refresh (s := s) ⟨rfl, rfl, rfl, rfl, rfl, fun _ _ => rfl⟩ _ _

section Stopped

variable (curves : Vector (List Point) 16) {tw : Tower} (hstopped : tw.running = false) (hlength : tw.keys.length = tw.z)

include hstopped hlength

/-- The records that a refresh of every key leaves in a tower that does not run. -/
theorem Tower.refreshAll_stopped_keys (k : Nat) :
    (tw.refresh curves tw.allKeys true).keys[k]? = tw.keys[k]?.map (tw.quietRecord curves k) := by
  rw [Tower.refresh_of_stopped curves tw.allKeys_nodup hstopped]
  refine (tw.getElem?_quietRefresh curves tw.allKeys k).trans ?_
  cases hkey : tw.keys[k]? with
  | none => rfl
  | some key =>
    have hmem : k ∈ tw.allKeys := List.mem_range.mpr (hlength ▸ (List.getElem?_eq_some_iff.mp hkey).1)
    rw [Option.map_some, Option.map_some, if_pos hmem]

theorem Tower.refreshAll_stopped_steps (k : Nat) : (tw.refresh curves tw.allKeys true).keys[k]?.bind KeyRec.steps =
    tw.keys[k]?.bind fun key => (tw.presetKey curves k key).steps := by
  rw [Tower.refreshAll_stopped_keys curves hstopped hlength]
  cases tw.keys[k]? <;> rfl

variable (hsound : tw.QueueSound)
include hsound

/-- The queue that a refresh of every key leaves in a DARK or HELD tower (R126). -/
theorem Tower.refreshAll_stopped_queue (hstate : tw.state = .dark ∨ tw.state = .held) :
    (tw.refresh curves tw.allKeys true).queue =
      if tw.state = .held then tw.lineAfter (tw.refresh curves tw.allKeys true) else [] := by
  have hquiet := congrArg Tower.queue (Tower.refresh_of_stopped curves tw.allKeys_nodup hstopped true)
  refine Eq.trans hquiet ?_
  rcases hstate with hdark | hheld
  · have hnot : ∀ k ∈ tw.allKeys, ∀ key : KeyRec, tw.keys[k]? = some key → key.drive.state ≠ .queued := fun k _ key hkey =>
      hsound.not_queued_of_dark hdark hkey
    rw [if_neg (by simp [hdark]), ← hsound.2.2.1 hdark]
    exact (congrArg Tower.queue (Tower.quietRefresh_of_dark curves tw.allKeys hdark hnot) :)
  · rw [if_pos hheld]
    exact Tower.quietRefresh_queue curves hsound (by simp [hheld]) hlength (Tower.refreshAll_stopped_steps curves hstopped hlength)

/-- In a tower that does not run and whose RUN slot is not COMPLETE a refresh of every key leaves nothing computed and nothing
queued (R61, R126). -/
theorem Tower.refreshAll_of_incomplete (hincomplete : tw.run.complete = false) : tw.refresh curves tw.allKeys true = { tw with
    keys := tw.keys.map fun key : KeyRec => { key with target := none, effective := none, drive := key.drive.toIdle }
    queue := []
    sweep := none } := by
  have hrecord : ∀ (k : Nat) (key : KeyRec), tw.keys[k]? = some key → tw.quietRecord curves k key =
      { key with target := none, effective := none, drive := key.drive.toIdle } := fun k key hkey => by
    have hpreset := Tower.presetKey_of_incomplete (curves := curves) (k := k) hincomplete key
    have hjoins : key.joins (tw.presetKey curves k key) = false := by
      rw [hpreset]
      cases hdrive : key.drive <;> simp [KeyRec.joins, KeyRec.steps, hdrive]
    have hdrive : (if key.leaves (tw.presetKey curves k key) then key.drive.toIdle else key.drive) = key.drive.toIdle := by
      cases hd : key.drive with
      | queued q =>
        obtain ⟨n, hn, -⟩ := hsound.queued_steps hkey hd
        have hleaves : key.leaves (tw.presetKey curves k key) = true :=
          (KeyRec.leaves_iff ..).mpr ⟨q, hd, by rw [hpreset]; exact .inl rfl, by rw [hpreset, hn]; exact fun e => nomatch e⟩
        rw [if_pos hleaves]
      | _ => exact ite_self _
    unfold Tower.quietRecord
    dsimp only
    rw [hjoins, Bool.and_false, if_neg Bool.false_ne_true, hdrive, hpreset]
  have hkeys : (tw.refresh curves tw.allKeys true).keys =
      tw.keys.map fun key : KeyRec => { key with target := none, effective := none, drive := key.drive.toIdle } :=
    List.ext_getElem? fun k => by
      rw [Tower.refreshAll_stopped_keys curves hstopped hlength, List.getElem?_map]
      cases hkey : tw.keys[k]? with
      | none => rfl
      | some key => exact congrArg some (hrecord k key hkey)
  have hsteps : ∀ k : Nat, (tw.refresh curves tw.allKeys true).keys[k]?.bind KeyRec.steps = none := fun k => by
    rw [hkeys, List.getElem?_map]
    cases tw.keys[k]? <;> rfl
  have haway : ∀ k, tw.leftAway (tw.refresh curves tw.allKeys true) k = false := fun k => by
    unfold Tower.leftAway
    rw [hsteps]
    cases tw.keys[k]?.bind fun key => key.drive.position <;> rfl
  have hqueue : (tw.refresh curves tw.allKeys true).queue = [] := by
    have hstate : tw.state = .dark ∨ tw.state = .held := by
      unfold Tower.running at hstopped
      cases hst : tw.state <;> simp [hst] at hstopped ⊢
    rw [Tower.refreshAll_stopped_queue curves hstopped hlength hsound hstate]
    simp [Tower.lineAfter, Tower.idleAway, haway]
  have hsweep : (tw.refresh curves tw.allKeys true).sweep = none := by
    have hrun : (tw.quietRefresh curves tw.allKeys).run.complete = false := hincomplete
    rw [Tower.refresh, if_pos rfl, Tower.refreshKeys_of_stopped curves tw.allKeys_nodup hstopped,
      Tower.refreshSweep_of_stopped (tw := tw.quietRefresh curves tw.allKeys) hstopped, hrun]
    rfl
  have hwhole := Tower.refresh_of_stopped curves tw.allKeys_nodup hstopped true
  have hkeys' : (tw.quietRefresh curves tw.allKeys).keys = _ := (congrArg Tower.keys hwhole).symm.trans hkeys
  have hqueue' : (tw.quietRefresh curves tw.allKeys).queue = _ := (congrArg Tower.queue hwhole).symm.trans hqueue
  rw [← hkeys', ← hqueue', ← hsweep]
  exact hwhole

end Stopped

/-! ### SLOT CLEAR (R36) -/

theorem Tower.mayStore_of_stopped {tw : Tower} (h : tw.state = .dark ∨ tw.state = .held) (n : SlotName) : tw.mayStore n = true := by
  rcases h with h | h <;> cases n <;> simp [Tower.mayStore, h]

section SlotRequests

variable {s : State} {p : MasterPort} {t : TowerIx} {b : Byte} (hp : p ≠ .scanner) (hfree : s.busy p = false)
  (hb : b.toNat = t.val) (hpermits : s.Permits p t.val)
include hp hfree hb hpermits

theorem exec_slotClear_next : exec (.slotClear p [b, 0x01#8]) s =
    .next ((s.setTower t { s.tower t with next := Slot.emptied (s.tower t).next.coverage.length }).sendReply p [0x96#8, 0x00#8]) :=
  exec_of_ok (fn := .slotClear) (r := .ok) (data := []) hfree (State.earlyRefusal_slotClear hp hb hpermits _) (by
    have hslot : readSlot 0x01#8 = some .next := rfl
    simp only [takeFunction, takeSlotClear, readTower_of_toNat hb, hslot]
    rfl)

theorem exec_slotClear_run (hstate : (s.tower t).state = .dark ∨ (s.tower t).state = .held) :
    let stored := s.setTower t { s.tower t with run := Slot.emptied (s.tower t).run.coverage.length }
    exec (.slotClear p [b, 0x00#8]) s = .next ((if (s.tower t).run.complete || (s.tower t).run.mirrored then stored.refreshTower t
      else stored).sendReply p [0x96#8, 0x00#8]) :=
  exec_of_ok (fn := .slotClear) (r := .ok) (data := []) hfree (State.earlyRefusal_slotClear hp hb hpermits _) (by
    have hslot : readSlot 0x00#8 = some .run := rfl
    simp only [takeFunction, takeSlotClear, readTower_of_toNat hb, hslot, Tower.mayStore_of_stopped hstate, if_true]
    rfl)

theorem exec_slotTagSet_next {m : Byte} (hm : m.toNat ≤ 1) (t3 t2 t1 t0 : Byte) :
    exec (.slotTagSet p [b, 0x01#8, t3, t2, t1, t0, m]) s = .next ((s.setTower t { s.tower t with
      next := { (s.tower t).next with tag := some (t3 ++ t2 ++ t1 ++ t0), mirrored := decide (m.toNat = 1) } }).sendReply p
        [0x97#8, 0x00#8]) :=
  exec_of_ok (fn := .slotTagSet) (r := .ok) (data := []) hfree (State.earlyRefusal_slotTagSet hp hb hpermits _ _ _ _ _ _) (by
    have hslot : readSlot 0x01#8 = some .next := rfl
    simp only [takeFunction, takeSlotTagSet, readTower_of_toNat hb, hslot, readFlag_of_le hm]
    rfl)

theorem exec_slotTagSet_run (hstate : (s.tower t).state = .dark ∨ (s.tower t).state = .held) {m : Byte} (hm : m.toNat ≤ 1)
    (t3 t2 t1 t0 : Byte) :
    let stored := s.setTower t { s.tower t with
      run := { (s.tower t).run with tag := some (t3 ++ t2 ++ t1 ++ t0), mirrored := decide (m.toNat = 1) } }
    exec (.slotTagSet p [b, 0x00#8, t3, t2, t1, t0, m]) s =
      .next ((if (s.tower t).run.mirrored != decide (m.toNat = 1) then stored.refreshTower t else stored).sendReply p
        [0x97#8, 0x00#8]) :=
  exec_of_ok (fn := .slotTagSet) (r := .ok) (data := []) hfree (State.earlyRefusal_slotTagSet hp hb hpermits _ _ _ _ _ _) (by
    have hslot : readSlot 0x00#8 = some .run := rfl
    simp only [takeFunction, takeSlotTagSet, readTower_of_toNat hb, hslot, readFlag_of_le hm, Tower.mayStore_of_stopped hstate,
      if_true]
    rfl)

end SlotRequests

theorem readFlag_none {m : Byte} (h : 2 ≤ m.toNat) : readFlag m = none := by
  have h0 : m ≠ 0x00#8 := byte_ne_of_le_toNat h (by decide)
  have h1 : m ≠ 0x01#8 := byte_ne_of_le_toNat h (by decide)
  simp [readFlag, h0, h1]

/-- A slot request passes the checks before its own where the port may change the tower it names, if it names one. -/
theorem State.earlyRefusal_slot {s : State} {p : MasterPort} {b : Byte} (hp : p ≠ .scanner)
    (hpermits : ∀ t : TowerIx, b.toNat = t.val → s.Permits p t.val) :
    (∀ n, s.earlyRefusal p .slotClear [b, n] = none) ∧
      ∀ n t3 t2 t1 t0 m, s.earlyRefusal p .slotTagSet [b, n, t3, t2, t1, t0, m] = none := by
  by_cases hb : b.toNat < 12
  · have hpermit : s.Permits p b.toNat := hpermits ⟨b.toNat, hb⟩ rfl
    exact ⟨State.earlyRefusal_slotClear (t := ⟨b.toNat, hb⟩) hp rfl hpermit,
      State.earlyRefusal_slotTagSet (t := ⟨b.toNat, hb⟩) hp rfl hpermit⟩
  · have hnone : readTower b = none := readTower_none (Nat.not_lt.mp hb)
    exact ⟨fun n => State.earlyRefusal_of_no_member (portRank_le_one hp) rfl (by simp [State.accessMember, towerMember, hnone]),
      fun n t3 t2 t1 t0 m =>
        State.earlyRefusal_of_no_member (portRank_le_one hp) rfl (by simp [State.accessMember, towerMember, hnone])⟩

theorem Slot.emptied_eq (sl : Slot) : Slot.emptied sl.coverage.length =
    { coverage := sl.coverage.map fun _ => none, tag := none, mirrored := false } := by
  rw [Slot.emptied, List.map_const']

theorem Drive.toIdle_eq (d : Drive) : d.toIdle = match d with
    | .queued q => .idle q
    | d => d := by
  cases d <;> rfl

/-! ### What a refresh of every key leaves of a key in a tower that does not run (R57, R126) -/

section QuietKey

variable (curves : Vector (List Point) 16) (tw : Tower) (k : Nat) {key : KeyRec}

theorem Tower.quietRecord_drive_of_unmoved (h : key.drive.state ∈ [DriveState.idle, .queued]) :
    (tw.quietRecord curves k key).drive.state ∈ [DriveState.idle, .queued] := by
  cases hdrive : key.drive <;> simp only [hdrive, Drive.state, List.mem_cons, reduceCtorEq, List.not_mem_nil, or_self] at h
  case idle q =>
    rw [Tower.quietRecord_drive_of_idle curves tw k hdrive]
    split <;> simp [Drive.state]
  case queued q =>
    rw [Tower.quietRecord_drive_of_queued curves tw k hdrive]
    split <;> simp [Drive.state]

/-- After a quiet refresh of a sound queue a key waits exactly where it is QUEUED (R124). -/
theorem Tower.QueueSound.mem_quietRefresh {tw : Tower} (hsound : tw.QueueSound) {ks : List Nat} {k : Nat} (hk : k ∈ ks)
    (hkey : tw.keys[k]? = some key) :
    k ∈ (tw.quietRefresh curves ks).queue ↔ (tw.quietRecord curves k key).drive.state = .queued := by
  have hmem : k ∈ (tw.quietRefresh curves ks).queue ↔
      k ∈ tw.queue ∧ key.leaves (tw.presetKey curves k key) = false ∨
        (tw.state != .dark && key.joins (tw.presetKey curves k key)) = true := by
    simp [Tower.quietRefresh, hk, Tower.leavesLine_of_key curves hkey, Tower.joinsLine_of_key curves hkey]
  have hqueued : k ∈ tw.queue ↔ key.drive.state = .queued := by
    rw [hsound.2.1 k]
    simp [Tower.isQueued, hkey]
  rw [hmem, hqueued]
  cases hdrive : key.drive with
  | idle q =>
    rw [Tower.quietRecord_drive_of_idle curves tw k hdrive]
    split <;> simp_all [Drive.state]
  | queued q =>
    have hjoins : key.joins (tw.presetKey curves k key) = false := KeyRec.joins_eq_false (.inr (by simp [hdrive, Drive.state]))
    rw [Tower.quietRecord_drive_of_queued curves tw k hdrive]
    split <;> simp_all [Drive.state]
  | _ =>
    have hjoins : key.joins (tw.presetKey curves k key) = false := KeyRec.joins_eq_false (.inr (by simp [hdrive, Drive.state]))
    rw [Tower.quietRecord_drive_of_other curves tw k (by simp [hdrive, Drive.state]), hdrive]
    simp [hjoins, Drive.state]

theorem Tower.QueueSound.state_quietRecord {tw : Tower} (hsound : tw.QueueSound) {ks : List Nat} {k : Nat} (hk : k ∈ ks)
    (hkey : tw.keys[k]? = some key) (h : key.drive.state ∈ [DriveState.idle, .queued]) :
    (tw.quietRecord curves k key).drive.state = if k ∈ (tw.quietRefresh curves ks).queue then .queued else .idle := by
  have hstate := Tower.quietRecord_drive_of_unmoved curves tw k h
  simp only [List.mem_cons, List.not_mem_nil, or_false] at hstate
  simp only [hsound.mem_quietRefresh curves hk hkey]
  rcases hstate with e | e <;> simp [e]

end QuietKey

theorem State.sendReply_masters_congr {s u : State} (h : u.masters = s.masters) (p : MasterPort) (body : List Byte) :
    (u.sendReply p body).masters = (s.sendReply p body).masters := by
  cases p <;> simp only [State.sendReply, State.setPort, State.port, h]

/-- Settles O28. -/
theorem slotClearAndTagSet : Obligations.SlotClearAndTagSet := by
  refine ⟨fun p t b s hp hfree hb hpermits => ?_, fun p b n t3 t2 t1 t0 m s hp hfree hpermits => ?_,
    fun p t b t3 t2 t1 t0 m s hp hfree hb hpermits hm => ?_⟩
  · intro tw cleared
    have hcleared : ∀ sl : Slot, Slot.emptied sl.coverage.length = cleared sl := Slot.emptied_eq
    refine ⟨by rw [exec_slotClear_next hp hfree hb hpermits, hcleared], fun hstate hlength hsound => ?_⟩
    intro emptied
    have hexec := exec_slotClear_run hp hfree hb hpermits hstate
    rw [hcleared] at hexec
    refine ⟨fun hrefresh => ?_, fun hc hm => ?_⟩
    · set stored : Tower := { tw with run := cleared tw.run } with hstored
      have hincomplete : stored.run.complete = false := by
        rw [hstored, ← hcleared]
        exact Slot.emptied_complete _
      have hdone : stored.refresh s.curves stored.allKeys true = emptied := by
        rw [Tower.refreshAll_of_incomplete s.curves (tw := stored) (Tower.running_eq_false hstate) hlength hsound hincomplete]
        simp only [Drive.toIdle_eq]
        rfl
      have hquiet : stored.holdsAny s.curves stored.allKeys = false := by simp [Tower.holdsAny, hincomplete]
      have hwhole : (s.setTower t stored).refreshTower t = s.setTower t emptied := by
        simp only [State.refreshTower, State.refresh, State.tower_setTower_same, State.setTower_curves, State.setTower_setTower,
          hdone, hquiet, Bool.false_eq_true, if_false]
      rw [hexec, if_pos (by simpa using hrefresh), ← hwhole]
    · rw [hexec, if_neg (by simp [hc, hm, tw])]
  · obtain ⟨hclear, htag⟩ := State.earlyRefusal_slot hp hpermits
    have htower : 12 ≤ b.toNat → readTower b = none := readTower_none
    have hslot : 2 ≤ n.toNat → readSlot n = none := readSlot_none
    have hflag : 2 ≤ m.toNat → readFlag m = none := readFlag_none
    refine ⟨fun h => exec_of_error (fn := .slotClear) (r := .range) hfree (hclear n) ?_,
      fun h => exec_of_error (fn := .slotTagSet) (r := .range) hfree (htag n t3 t2 t1 t0 m) ?_⟩
    · rcases h with h | h
      · simp [takeFunction, takeSlotClear, htower h]
      · simp [takeFunction, takeSlotClear, hslot h]
    · rcases h with h | h | h
      · simp [takeFunction, takeSlotTagSet, htower h]
      · simp [takeFunction, takeSlotTagSet, hslot h]
      · simp [takeFunction, takeSlotTagSet, hflag h]
  · intro tw tagged
    refine ⟨exec_slotTagSet_next hp hfree hb hpermits hm t3 t2 t1 t0, fun hstate => ?_⟩
    have hexec := exec_slotTagSet_run hp hfree hb hpermits hstate hm t3 t2 t1 t0
    refine ⟨fun hsame => ?_, fun hdiffers hlength hsound => ?_⟩
    · rw [hexec, if_neg (by simp [hsame, tw])]
    · set stored : Tower := { tw with run := tagged tw.run } with hstored
      have hstopped : stored.running = false := Tower.running_eq_false hstate
      set u := (s.setTower t stored).refreshTower t with hu
      have htower : u.tower t = stored.refresh s.curves stored.allKeys true := by
        rw [hu, State.refreshTower_tower, if_pos rfl, State.tower_setTower_same, State.setTower_curves]
      have hsame : SameBut t s u := (s.setTower_sameBut t stored).trans (State.refreshTower_sameBut _ t)
      have hwhole := Tower.refresh_of_stopped s.curves stored.allKeys_nodup hstopped true
      rw [← htower] at hwhole
      have hkeys := Tower.refreshAll_stopped_keys s.curves (tw := stored) hstopped hlength
      rw [← htower] at hkeys
      have hqueue := Tower.refreshAll_stopped_queue s.curves (tw := stored) hstopped hlength hsound hstate
      rw [← htower] at hqueue
      refine ⟨_, hexec.trans (by rw [if_pos (by simpa using hdiffers)]), hsame.sendReply _ _, ?_, ?_⟩
      · exact State.sendReply_masters_congr (s := s) (u := u) (State.refresh_masters ..) _ _
      simp only [State.sendReply_tower, State.sendReply_faults, State.sendReply_curves]
      refine ⟨?_, ?_, ?_, hqueue, ?_, fun k key hkey => ?_⟩
      · exact State.refreshTower_faults (s.setTower t stored) t
      · rw [htower]
        have hcurves : u.curves = s.curves := State.refreshTower_curves ..
        exact hcurves.symm ▸ Tower.refreshAll_presetsCurrent (tw := stored) s.curves hlength
      · rw [hwhole]
        rfl
      · rw [hwhole]
        exact List.length_mapIdx
      · have hmem : k ∈ stored.allKeys := List.mem_range.mpr (hlength ▸ (List.getElem?_eq_some_iff.mp hkey).1)
        obtain ⟨htrim, hacc, hsettle, hposition⟩ := Tower.quietRecord_kept s.curves stored k key
        refine ⟨stored.quietRecord s.curves k key, ?_, htrim, hacc, hsettle, hposition, fun hc hshort => ?_,
          Tower.quietRecord_drive_of_other s.curves stored k, fun hdrive => ?_⟩
        · rw [hkeys]
          exact congrArg _ hkey
        · have hcomplete : stored.run.complete = true := hc
          rw [Tower.quietRecord_target, Tower.presetKey_of_complete hcomplete]
          exact Tower.presetTarget_of_incomplete (tw := stored) hshort key
        · have hline : (u.tower t).queue = (stored.quietRefresh s.curves stored.allKeys).queue := by rw [hwhole]
          rw [hline]
          exact hsound.state_quietRecord s.curves (tw := stored) hmem hkey hdrive

end Sys2Proof.Machine

/-! SUPPORT. The curve cursor block, CURVE SELECT, CURVE GET and CURVE PUT (R45 to R52). -/

namespace Sys2Proof.Machine

/-! ### The cursor block (R45, R175) -/

/-- The curve cursor block of a cursor whose curve has this many points. -/
def Cursor.block (c : Cursor) (count : Nat) : List Byte :=
  [byteOf c.curve.val, byteOf c.index, c.phase.code] ++
  (match c.phase with
   | .even => [0x00#8, 0x00#8]
   | .half held => bytes16 held) ++
  [c.lastOp.code, byteOf count]

theorem State.cursorBlock_eq (s : State) (p : MasterPort) :
    s.cursorBlock p = (s.port p).cursor.block (s.curve (s.port p).cursor.curve).length := rfl

theorem Cursor.block_length (c : Cursor) (count : Nat) : (c.block count).length = 7 := by
  unfold Cursor.block
  cases c.phase <;> rfl

/-- The fields of a cursor block that stands in a reply. -/
theorem Cursor.block_fields {c : Cursor} {count : Nat} (hindex : c.index ≤ 255) (hheld : ∀ held, c.phase = .half held → held ≤ 65535)
    (hcount : count ≤ 255) (before rest : List Byte) :
    CursorFields (before ++ (c.block count ++ rest)) before.length c count := by
  have hcurve : c.curve.val < 256 := Nat.lt_trans c.curve.isLt (by decide)
  have hblock : c.block count = byteOf c.curve.val :: byteOf c.index :: c.phase.code ::
      ((match c.phase with
        | .even => [0x00#8, 0x00#8]
        | .half held => bytes16 held) ++ [c.lastOp.code, byteOf count]) := by
    unfold Cursor.block
    cases c.phase <;> rfl
  have hlast : c.lastOp.code.toNat = match c.lastOp with
      | .none => 0
      | .read => 1
      | .write => 2 := by cases c.lastOp <;> rfl
  rw [hblock]
  unfold CursorFields
  cases hphase : c.phase with
  | even =>
    exact ⟨(field8_append before _ 0 _).mpr ⟨_, rfl, byteOf_toNat hcurve⟩, (field8_append before _ 1 _).mpr ⟨_, rfl, byteOf_toNat (by omega)⟩,
      ⟨(field8_append before _ 2 _).mpr ⟨_, rfl, rfl⟩, (field16_append before _ 3 _).mpr ⟨_, _, rfl, rfl, rfl⟩⟩,
      (field8_append before _ 5 _).mpr ⟨_, rfl, hlast⟩, (field8_append before _ 6 _).mpr ⟨_, rfl, byteOf_toNat (by omega)⟩⟩
  | half held =>
    exact ⟨(field8_append before _ 0 _).mpr ⟨_, rfl, byteOf_toNat hcurve⟩, (field8_append before _ 1 _).mpr ⟨_, rfl, byteOf_toNat (by omega)⟩,
      ⟨(field8_append before _ 2 _).mpr ⟨_, rfl, rfl⟩, (field16_append before _ 3 _).mpr ⟨_, _, rfl, rfl, bytes16_toNat (hheld held hphase)⟩⟩,
      (field8_append before _ 5 _).mpr ⟨_, rfl, hlast⟩, (field8_append before _ 6 _).mpr ⟨_, rfl, byteOf_toNat (by omega)⟩⟩

theorem readCurve_of_toNat {b : Byte} {c : CurveIx} (h : b.toNat = c.val) : readCurve b = some c := by
  simp [readCurve, h]

theorem readCurve_none {b : Byte} (h : 16 ≤ b.toNat) : readCurve b = none := by
  simp [readCurve, h]

/-! ### CURVE SELECT and CURVE GET (R46, R52) -/

theorem State.earlyRefusal_curveSelect (s : State) (p : MasterPort) (b i : Byte) : s.earlyRefusal p .curveSelect [b, i] = none :=
  State.earlyRefusal_of_no_member (portRank_le_two p) rfl rfl

theorem State.earlyRefusal_curveGet (s : State) (p : MasterPort) (n : Byte) : s.earlyRefusal p .curveGet [n] = none :=
  State.earlyRefusal_of_no_member (portRank_le_two p) rfl rfl

theorem State.cursorBlock_setCursor (s : State) (p : MasterPort) (c : Cursor) :
    (s.setCursor p c).cursorBlock p = c.block (s.curve c.curve).length := by
  rw [State.cursorBlock_eq, State.setCursor_port_same, State.setCursor_curve]

/-- Settles O29. -/
theorem curveSelectAndGet : Obligations.CurveSelectAndGet := by
  refine ⟨fun p c b i s hfree hb hi hlength => ?_, fun p b i s hfree hbad => ?_, fun p n s hfree hlo hhi hsound => ?_,
    fun p n s hfree hbad => ?_⟩
  · intro cur
    have htake : takeCurveSelect p [b, i] s = .ok (s.setCursor p cur, .ok, cur.block (s.curve c).length) := by
      simp only [takeCurveSelect, readCurve_of_toNat hb, if_pos hi, State.cursorBlock_setCursor]
      rfl
    have hfields := Cursor.block_fields (c := cur) (count := (s.curve c).length) (Nat.le_trans hi (by decide)) (fun _ h => nomatch h)
      (Nat.le_trans hlength (by decide)) [0x98#8, 0x00#8] []
    rw [List.append_nil] at hfields
    refine ⟨_, exec_of_ok (fn := .curveSelect) hfree (s.earlyRefusal_curveSelect p b i) htake, ?_, rfl, hfields⟩
    rw [List.length_cons, List.length_cons, Cursor.block_length]
  · refine exec_of_error (fn := .curveSelect) (r := .range) hfree (s.earlyRefusal_curveSelect p b i) ?_
    simp only [takeFunction, takeCurveSelect]
    rcases hbad with hb | hi
    · rw [readCurve_none hb]
    · cases readCurve b with
      | none => rfl
      | some c => exact if_neg (Nat.not_le.mpr hi)
  · intro c points returned c'
    obtain ⟨hcurves, hcursors⟩ := hsound
    obtain ⟨hpoints, -, hvalues⟩ : CurveSound points := hcurves c.curve
    obtain ⟨hindex, -⟩ : c.Sound := hcursors p
    set sent := (points.drop c.index).take n.toNat with hsent
    have hreturned : sent.length = returned := by
      rw [hsent, List.length_take, List.length_drop]
    have htake : takeCurveGet p [n] s = .ok (s.setCursor p c', .ok, byteOf returned :: c'.block points.length ++ sent.flatMap Point.bytes) := by
      have hc' : c' = { c with index := c.index + sent.length, phase := .even, lastOp := .read } := by rw [hreturned]
      simp only [takeCurveGet, if_pos (And.intro hlo hhi), State.cursorBlock_setCursor]
      rw [hc', ← hreturned]
    have hbyte : returned ≤ 12 := Nat.le_trans (Nat.min_le_left _ _) hhi
    have hfields := Cursor.block_fields (c := c') (count := points.length) (show c.index + returned ≤ 255 by omega)
      (fun _ h => nomatch h) (Nat.le_trans hpoints (by decide)) [0x9A#8, 0x00#8, byteOf returned] (sent.flatMap Point.bytes)
    have hbytes : ∀ q : Point, q.bytes.length = 4 := fun _ => rfl
    refine ⟨_, exec_of_ok (fn := .curveGet) hfree (s.earlyRefusal_curveGet p n) htake, ?_, rfl, ⟨_, rfl, byteOf_toNat (by omega)⟩,
      hfields, fun i q hi hq => ?_⟩
    · simp only [List.length_cons, List.length_append, Cursor.block_length, List.length_flatMap, hbytes, List.map_const',
        List.sum_replicate, smul_eq_mul, hreturned]
      omega
    · have hi' : sent[i]? = some q := by
        rw [hsent, List.getElem?_take_of_lt (Nat.lt_of_lt_of_le hi (Nat.min_le_left _ _)), List.getElem?_drop, hq]
      obtain ⟨before, rest, hbody, hbefore⟩ := exists_record hbytes ([0x9A#8, 0x00#8, byteOf returned] ++ c'.block points.length) hi'
      obtain ⟨hcoverage, hopening⟩ := hvalues q (List.mem_of_getElem? hq)
      have hoffset : before.length = 10 + 4 * i := by
        rw [hbefore, List.length_append, Cursor.block_length]
        rfl
      have hreply : (replyByte MasterFn.curveGet.code :: Result.ok.code ::
          (byteOf returned :: c'.block points.length ++ sent.flatMap Point.bytes)) = before ++ (q.bytes ++ rest) := hbody
      rw [hreply, show 12 + 4 * i = before.length + 2 by omega, ← hoffset]
      exact ⟨(field16_append before _ 0 _).mpr ⟨_, _, rfl, rfl, bytes16_toNat (by omega)⟩,
        (field16_append before _ 2 _).mpr ⟨_, _, rfl, rfl, bytes16_toNat (by omega)⟩⟩
  · exact exec_of_error (fn := .curveGet) (r := .range) hfree (s.earlyRefusal_curveGet p n) (if_neg (by omega))

end Sys2Proof.Machine

/-! SUPPORT. CURVE PUT (R47 to R51). -/

namespace Sys2Proof.Machine

/-! ### One word (R48, R49) -/

/-- The machine once a point is committed at a port's cursor (R49, R50, R51). -/
def State.committed (s : State) (p : MasterPort) (points : List Point) : State :=
  ((s.setCurve (s.port p).cursor.curve points).setCursor p { (s.port p).cursor with
    index := (s.port p).cursor.index + 1, phase := .even, lastOp := .write }).refreshCurve (s.port p).cursor.curve

section OneWord

variable {s : State} {p : MasterPort} {w : Nat} (rest : List Nat) (n : Nat)

theorem State.putWords_of_range (h : 1000 < w) :
    State.putWords p (w :: rest) n s = (s.setCursor p { (s.port p).cursor with phase := .even }, .range, n) := by
  rw [State.putWords, if_pos h]

theorem State.putWords_of_even (h : w ≤ 1000) (hphase : (s.port p).cursor.phase = .even) :
    State.putWords p (w :: rest) n s = State.putWords p rest n (s.setCursor p { (s.port p).cursor with phase := .half w }) := by
  rw [State.putWords, if_neg (Nat.not_lt.mpr h)]
  simp only [hphase]

theorem State.putWords_of_order {held : Nat} (h : w ≤ 1000) (hphase : (s.port p).cursor.phase = .half held)
    (hfails : commitPoint (s.curve (s.port p).cursor.curve) (s.port p).cursor.index held w = none) :
    State.putWords p (w :: rest) n s = (s.setCursor p { (s.port p).cursor with phase := .even }, .order, n) := by
  rw [State.putWords, if_neg (Nat.not_lt.mpr h)]
  simp only [hphase, hfails]

theorem State.putWords_of_commit {held : Nat} {points : List Point} (h : w ≤ 1000) (hphase : (s.port p).cursor.phase = .half held)
    (hcommit : commitPoint (s.curve (s.port p).cursor.curve) (s.port p).cursor.index held w = some points) :
    State.putWords p (w :: rest) n s = State.putWords p rest (n + 1) (s.committed p points) := by
  rw [State.putWords, if_neg (Nat.not_lt.mpr h)]
  simp only [hphase, hcommit]
  rfl

end OneWord

/-- The four conditions of R49 under which a commit fails. -/
theorem not_committable_iff (points : List Point) (i held : Nat) : ¬Committable points i held ↔
    points.length < i ∨ i = 12 ∨ (∃ q, 0 < i ∧ points[i - 1]? = some q ∧ held ≤ q.coverage) ∨
      ∃ q, points[i + 1]? = some q ∧ q.coverage ≤ held := by
  unfold Committable
  constructor
  · intro h
    by_contra hnot
    simp only [not_or, not_exists, not_and, Nat.not_lt, Nat.not_le] at hnot
    obtain ⟨hlength, htwelve, hbelow, habove⟩ := hnot
    refine h ⟨hlength, htwelve, fun j q hj hq => ?_, habove⟩
    subst hj
    exact hbelow q (Nat.succ_pos j) hq
  · rintro (h | h | ⟨q, hpos, hq, hle⟩ | ⟨q, hq, hle⟩) ⟨hlength, htwelve, hbelow, habove⟩
    · omega
    · exact htwelve h
    · have := hbelow (i - 1) q (by omega) hq
      omega
    · have := habove q hq
      omega

theorem commitPoint_eq_none {points : List Point} {i held : Nat} (h : ¬Committable points i held) (w : Nat) :
    commitPoint points i held w = none := by
  rcases commitPoint_cases points i held w with ⟨-, e⟩ | ⟨hc, -, -⟩ | ⟨hc, -, -⟩
  · exact e
  · exact absurd hc h
  · exact absurd hc h

theorem commitPoint_eq_some {points : List Point} {i held : Nat} (h : Committable points i held) (w : Nat) :
    commitPoint points i held w = some (if i = points.length then points ++ [{ coverage := held, opening := w }]
      else points.set i { coverage := held, opening := w }) := by
  rcases commitPoint_cases points i held w with ⟨hc, -⟩ | ⟨-, hi, e⟩ | ⟨-, hi, e⟩
  · exact absurd h hc
  · rw [e, if_pos hi]
  · rw [e, if_neg (Nat.ne_of_lt hi)]

/-- What a commit leaves of the machine outside the towers and the Fault List (R50, R51). -/
theorem State.committed_spec (s : State) (p : MasterPort) (points : List Point) :
    let c := (s.port p).cursor
    let u := s.committed p points
    u.pending = s.pending ∧ u.sheets = s.sheets ∧ u.access = s.access ∧ u.restartPending = s.restartPending ∧
      u.port p = { s.port p with cursor := { c with index := c.index + 1, phase := .even, lastOp := .write } } ∧
      (∀ q, q ≠ p → u.port q = s.port q) ∧ u.curve c.curve = points ∧ (∀ d, d ≠ c.curve → u.curve d = s.curve d) ∧
      ∀ t, u.tower t = (s.tower t).refresh u.curves ((s.tower t).keysOn c.curve) false := by
  intro c u
  set c' : Cursor := { c with index := c.index + 1, phase := .even, lastOp := .write } with hc'
  obtain ⟨hpending, hsheets, hcurves, hmasters, haccess, hrestart, htower⟩ :=
    ((s.setCurve c.curve points).setCursor p c').refreshCurve_spec c.curve
  refine ⟨?_, ?_, ?_, ?_, ?_, fun q hq => ?_, ?_, fun d hd => ?_, fun t => ?_⟩
  · exact hpending.trans (by simp)
  · exact hsheets.trans (by simp)
  · exact haccess.trans (by simp)
  · exact hrestart.trans (by simp)
  · exact (State.port_of_masters hmasters p).trans (by simp)
  · exact (State.port_of_masters hmasters q).trans (by simp [State.setCursor_port_of_ne _ _ hq])
  · exact (State.refreshCurve_curve _ _ _).trans ((State.setCursor_curve ..).trans (State.curve_setCurve_same s c.curve points))
  · exact (State.refreshCurve_curve _ _ _).trans ((State.setCursor_curve ..).trans (State.curve_setCurve_of_ne s points hd))
  · refine (htower t).trans ?_
    rw [← hcurves]
    simp
    rfl

theorem Tower.keysOn_eq_nil {tw : Tower} {c : CurveIx} (ha : tw.config.metering.curveA ≠ c) (hb : tw.config.metering.curveB ≠ c) :
    tw.keysOn c = [] := by
  refine List.filter_eq_nil_iff.mpr fun k _ => ?_
  unfold Tower.curveOf
  split <;> simp_all

theorem Tower.refresh_nil (curves : Vector (List Point) 16) (tw : Tower) : tw.refresh curves [] false = tw := rfl

/-! ### CURVE PUT of a list of words -/

/-- A permitted CURVE PUT takes its words in order and answers with the points it committed and its cursor (R47). -/
theorem exec_curvePut_of_permits {p : MasterPort} {words : List Nat} {s : State} (hp : p ≠ .scanner) (hfree : s.busy p = false)
    (hpermits : s.Permits p 12) (hlo : 1 ≤ words.length) (hhi : words.length ≤ 62) (hwords : ∀ w ∈ words, w < 65536) :
    let out := State.putWords p words 0 s
    exec (.curvePut p (words.flatMap bytes16)) s =
      .next (out.1.sendReply p (0x99#8 :: out.2.1.code :: byteOf out.2.2 :: out.1.cursorBlock p)) := by
  intro out
  have htake : takeCurvePut p (words.flatMap bytes16) s = .ok (out.1, out.2.1, byteOf out.2.2 :: out.1.cursorBlock p) := by
    rw [takeCurvePut, readWords_flatMap hwords]
  have hfits : lengthFits .curvePut (words.flatMap bytes16).length = true := by
    refine (lengthFits_iff .curvePut _).mpr ⟨words.length, hlo, hhi, ?_⟩
    rw [length_flatMap_bytes16]
  exact exec_of_ok (fn := .curvePut) hfree (State.earlyRefusal_of_permits (portRank_le_one hp) hfits rfl hpermits) htake

/-- Settles O30. -/
theorem curvePutTakesOneWord : Obligations.CurvePutTakesOneWord := by
  intro p w s hp hfree hpermits hw hsound c points put
  obtain ⟨hcurves, hcursors⟩ := hsound
  have hpoints : CurveSound points := hcurves c.curve
  obtain ⟨hindex, hheld⟩ : c.Sound := hcursors p
  have hexec := exec_curvePut_of_permits (words := [w]) hp hfree hpermits (Nat.le_refl 1) (show 1 ≤ 62 by decide) (by simpa using hw)
  rw [List.flatMap_singleton] at hexec
  have hput : ∀ (c' : Cursor) (r : Result), c'.curve = c.curve → c'.index = c.index → (∀ held, c'.phase = .half held → held ≤ 1000) →
      State.putWords p [w] 0 s = (s.setCursor p c', r, 0) → put (s.setCursor p c') r.code 0x00#8 c' points.length :=
    fun c' r hcurve hindex' hhalf hwords => by
      rw [hwords] at hexec
      have hfields := Cursor.block_fields (c := c') (count := points.length) (by omega) (fun held h => Nat.le_trans (hhalf held h) (by decide))
        (Nat.le_trans hpoints.1 (by decide)) [0x99#8, r.code, 0x00#8] []
      rw [List.append_nil] at hfields
      have hblock : (s.setCursor p c').cursorBlock p = c'.block points.length := by
        rw [State.cursorBlock_setCursor, hcurve]
      refine ⟨_, hexec, ?_, rfl, ?_⟩
      · simp only [List.length_cons, hblock, Cursor.block_length]
      · simp only [hblock]
        exact hfields
  refine ⟨fun hbig => ?_, fun hsmall heven => ?_, fun held hsmall hhalf => ?_⟩
  · exact hput _ .range rfl rfl (fun _ h => nomatch h) (State.putWords_of_range [] 0 hbig)
  · exact hput _ .ok rfl rfl (fun held h => CursorPhase.half.inj h ▸ hsmall) (State.putWords_of_even [] 0 hsmall heven)
  · intro fails
    have hfails : ¬Committable points c.index held ↔ fails := not_committable_iff ..
    refine ⟨fun h => ?_, fun h => ?_⟩
    · exact hput _ .order rfl rfl (fun _ h => nomatch h)
        (State.putWords_of_order [] 0 hsmall hhalf (commitPoint_eq_none (hfails.mpr h) w))
    · intro c' points'
      have hcommittable : Committable points c.index held := not_not.mp (mt hfails.mp h)
      have hcommit : commitPoint points c.index held w = some points' := commitPoint_eq_some hcommittable w
      have hheld' : held ≤ 1000 := by
        simp only [hhalf] at hheld
        exact hheld
      obtain ⟨hlength', -⟩ := commitPoint_sound hpoints hheld' hsmall hcommit
      have hindex' := commitPoint_index hpoints.1 hcommit
      obtain ⟨hpending, hsheets, haccess, hrestart, hport, hothers, hcurve, hcurves', htower⟩ := s.committed_spec p points'
      have hdone : State.putWords p [w] 0 s = (s.committed p points', .ok, 1) := State.putWords_of_commit [] 0 hsmall hhalf hcommit
      rw [hdone] at hexec
      generalize s.committed p points' = u at hexec hpending hsheets haccess hrestart hport hothers hcurve hcurves' htower
      have hcursor : (u.port p).cursor = c' := by rw [hport]
      have hblock : u.cursorBlock p = c'.block points'.length := by
        rw [State.cursorBlock_eq, hcursor]
        exact congrArg (fun l : List Point => c'.block l.length) hcurve
      dsimp only at hexec
      rw [hblock] at hexec
      have hfields := Cursor.block_fields (c := c') (count := points'.length) (show c.index + 1 ≤ 255 by omega) (fun _ h => nomatch h)
        (Nat.le_trans hlength' (by decide)) [0x99#8, 0x00#8, 0x01#8] []
      rw [List.append_nil] at hfields
      refine ⟨_, _, hexec, by rw [State.sendReply_port_same], ?_, rfl, ?_, ?_, ?_, fun q hq => ?_, ?_, fun d hd => ?_, ?_, ?_, ?_, ?_,
        fun t ha hb => ?_⟩
      · simp only [List.length_cons, Cursor.block_length]
      · exact hfields
      · rw [State.sendReply_cursor]
        exact hcursor
      · rw [State.sendReply_ctx]
        rw [hport]
      · rw [State.sendReply_port_of_ne _ _ hq]
        exact hothers q hq
      · rw [State.sendReply_curve]
        exact hcurve
      · rw [State.sendReply_curve]
        exact hcurves' d hd
      · rw [State.sendReply_pending]
        exact hpending
      · rw [State.sendReply_sheets]
        exact hsheets
      · rw [State.sendReply_access]
        exact haccess
      · rw [State.sendReply_restartPending]
        exact hrestart
      · rw [State.sendReply_tower]
        refine (htower t).trans ?_
        rw [Tower.keysOn_eq_nil ha hb, Tower.refresh_nil]

end Sys2Proof.Machine

/-! SUPPORT. A CURVE PUT of two messages (R43, R48, R50). -/

namespace Sys2Proof.Machine

/-! ### The words of a message in two parts -/

/-- The count of points committed runs on. -/
theorem State.putWords_count (p : MasterPort) (words : List Nat) (n : Nat) (s : State) :
    State.putWords p words n s =
      ((State.putWords p words 0 s).1, (State.putWords p words 0 s).2.1, n + (State.putWords p words 0 s).2.2) := by
  induction words generalizing n s with
  | nil => rfl
  | cons w rest ih =>
    by_cases hbig : 1000 < w
    · rw [State.putWords_of_range rest n hbig, State.putWords_of_range rest 0 hbig]
      rfl
    · have hsmall : w ≤ 1000 := Nat.not_lt.mp hbig
      cases hphase : (s.port p).cursor.phase with
      | even => rw [State.putWords_of_even rest n hsmall hphase, State.putWords_of_even rest 0 hsmall hphase, ih]
      | half held =>
        cases hcommit : commitPoint (s.curve (s.port p).cursor.curve) (s.port p).cursor.index held w with
        | none =>
          rw [State.putWords_of_order rest n hsmall hphase hcommit, State.putWords_of_order rest 0 hsmall hphase hcommit]
          rfl
        | some points =>
          rw [State.putWords_of_commit rest n hsmall hphase hcommit, State.putWords_of_commit rest 0 hsmall hphase hcommit,
            ih (n + 1), ih (0 + 1)]
          simp only [Nat.zero_add, Nat.add_assoc]

/-- The first failure ends the request; else the rest of the words is taken in the state left (R50). -/
theorem State.putWords_append (p : MasterPort) (words rest : List Nat) (n : Nat) (s : State) :
    let out := State.putWords p words n s
    State.putWords p (words ++ rest) n s = if out.2.1 = .ok then State.putWords p rest out.2.2 out.1 else out := by
  induction words generalizing n s with
  | nil => rfl
  | cons w words ih =>
    rw [List.cons_append]
    by_cases hbig : 1000 < w
    · rw [State.putWords_of_range words n hbig, State.putWords_of_range (words ++ rest) n hbig]
      rfl
    · have hsmall : w ≤ 1000 := Nat.not_lt.mp hbig
      cases hphase : (s.port p).cursor.phase with
      | even =>
        rw [State.putWords_of_even words n hsmall hphase, State.putWords_of_even (words ++ rest) n hsmall hphase]
        exact ih ..
      | half held =>
        cases hcommit : commitPoint (s.curve (s.port p).cursor.curve) (s.port p).cursor.index held w with
        | none =>
          rw [State.putWords_of_order words n hsmall hphase hcommit, State.putWords_of_order (words ++ rest) n hsmall hphase hcommit]
          rfl
        | some points =>
          rw [State.putWords_of_commit words n hsmall hphase hcommit,
            State.putWords_of_commit (words ++ rest) n hsmall hphase hcommit]
          exact ih ..

/-! ### The end of a reply between the parts (R43, R148) -/

theorem State.release_sendReply (s : State) (p : MasterPort) (body : List Byte) : (s.sendReply p body).release p = s.release p := by
  cases p <;> rfl

theorem State.release_release (s : State) (p : MasterPort) : (s.release p).release p = s.release p := by cases p <;> rfl

theorem State.release_setCursor (s : State) (p : MasterPort) (c : Cursor) : (s.release p).setCursor p c = (s.setCursor p c).release p := by
  cases p <;> rfl

theorem State.release_setTower (s : State) (p : MasterPort) (t : TowerIx) (tw : Tower) :
    (s.release p).setTower t tw = (s.setTower t tw).release p := by
  cases p <;> rfl

theorem State.release_logFault (s : State) (p : MasterPort) (kind : FaultKind) (o : Origin) :
    (s.release p).logFault kind o = (s.logFault kind o).release p := by
  cases p <;> rfl

theorem State.release_refresh (s : State) (p : MasterPort) (t : TowerIx) (ks : List Nat) (sweepToo : Bool) :
    (s.release p).refresh t ks sweepToo = (s.refresh t ks sweepToo).release p := by
  unfold State.refresh
  simp only [State.release_tower, State.release_curves, State.release_setTower, State.release_logFault]
  split <;> rfl

theorem State.release_refreshCurve (s : State) (p : MasterPort) (c : CurveIx) :
    (s.release p).refreshCurve c = (s.refreshCurve c).release p := by
  have hfold : ∀ (ts : List TowerIx) (s : State),
      ts.foldl (fun s t => s.refresh t ((s.tower t).keysOn c) false) (s.release p) =
        (ts.foldl (fun s t => s.refresh t ((s.tower t).keysOn c) false) s).release p := fun ts => by
    induction ts with
    | nil => exact fun s => rfl
    | cons t ts ih =>
      intro s
      rw [List.foldl_cons, List.foldl_cons, ← ih, State.release_tower, State.release_refresh]
  exact hfold _ s

theorem State.release_cursor (s : State) (p : MasterPort) : ((s.release p).port p).cursor = (s.port p).cursor := by
  rw [State.release_port_same]

theorem State.release_curve (s : State) (p : MasterPort) (c : CurveIx) : (s.release p).curve c = s.curve c := by
  cases p <;> rfl

theorem State.release_committed (s : State) (p : MasterPort) (points : List Point) :
    (s.release p).committed p points = (s.committed p points).release p := by
  have hset : ∀ c, (s.release p).setCurve c points = (s.setCurve c points).release p := fun c => by cases p <;> rfl
  rw [State.committed, State.release_cursor, hset, State.release_setCursor, State.release_refreshCurve]
  rfl

/-- The words of a message do what they do whether the port's last reply is still held or not. -/
theorem State.putWords_release (p : MasterPort) (words : List Nat) (n : Nat) (s : State) :
    State.putWords p words n (s.release p) = ((State.putWords p words n s).1.release p, (State.putWords p words n s).2) := by
  induction words generalizing n s with
  | nil => rfl
  | cons w rest ih =>
    have hcursor := s.release_cursor p
    by_cases hbig : 1000 < w
    · rw [State.putWords_of_range rest n hbig, State.putWords_of_range rest n hbig, hcursor, State.release_setCursor]
    · have hsmall : w ≤ 1000 := Nat.not_lt.mp hbig
      cases hphase : (s.port p).cursor.phase with
      | even =>
        rw [State.putWords_of_even rest n hsmall hphase, State.putWords_of_even rest n hsmall (hcursor ▸ hphase), hcursor,
          State.release_setCursor, ih]
      | half held =>
        have hsame : commitPoint ((s.release p).curve ((s.release p).port p).cursor.curve) ((s.release p).port p).cursor.index held w =
            commitPoint (s.curve (s.port p).cursor.curve) (s.port p).cursor.index held w := by
          rw [hcursor, State.release_curve]
        cases hcommit : commitPoint (s.curve (s.port p).cursor.curve) (s.port p).cursor.index held w with
        | none =>
          rw [State.putWords_of_order rest n hsmall hphase hcommit,
            State.putWords_of_order rest n hsmall (hcursor ▸ hphase) (hsame.trans hcommit), hcursor, State.release_setCursor]
        | some points =>
          rw [State.putWords_of_commit rest n hsmall hphase hcommit,
            State.putWords_of_commit rest n hsmall (hcursor ▸ hphase) (hsame.trans hcommit), State.release_committed, ih]

theorem State.release_cursorBlock (s : State) (p : MasterPort) : (s.release p).cursorBlock p = s.cursorBlock p := by
  rw [State.cursorBlock_eq, State.cursorBlock_eq, State.release_cursor, State.release_curve]

/-! ### The rights of the port between the parts -/

theorem Result.code_eq_ok {r : Result} : r.code = 0x00#8 ↔ r = .ok := by cases r <;> decide

theorem State.release_busy (s : State) (p : MasterPort) : (s.release p).busy p = false := by
  simp [State.busy]

theorem State.putWords_access (p : MasterPort) (words : List Nat) (n : Nat) (s : State) :
    (State.putWords p words n s).1.access = s.access :=
  State.putWords_keeps (Inv := fun u => u.access = s.access) p (fun _ h => by simpa using h) (fun _ _ h _ => by simpa using h)
    (fun u _ _ points h _ _ _ => by
      obtain ⟨-, -, haccess, -⟩ := u.committed_spec p points
      exact haccess.trans h) words n s rfl

/-- Settles O31. -/
theorem curvePutTakesWordsInOrder : Obligations.CurvePutTakesWordsInOrder := by
  intro p ws ws' s hp hfree hpermits hlo hlo' hhi hwords
  have hfirst := exec_curvePut_of_permits hp hfree hpermits hlo (by omega) fun w hw => hwords w (List.mem_append_left ws' hw)
  have hwhole := exec_curvePut_of_permits hp hfree hpermits (words := ws ++ ws') (by rw [List.length_append]; omega)
    (by rw [List.length_append]; omega) hwords
  have happend := State.putWords_append p ws ws' 0 s
  set out := State.putWords p ws 0 s with hout
  dsimp only at hfirst hwhole happend
  refine ⟨_, out.2.2, out.2.1.code, out.1.cursorBlock p, hfirst, by rw [State.sendReply_port_same]; rfl, fun hfailed => ?_, fun hok => ?_⟩
  · rw [if_neg fun h => hfailed (Result.code_eq_ok.mpr h)] at happend
    rw [hwhole, happend]
  · rw [if_pos (Result.code_eq_ok.mp hok), State.putWords_count p ws' out.2.2] at happend
    set rest := State.putWords p ws' 0 out.1 with hrest
    have hpermits' : ((out.1.sendReply p (0x99#8 :: out.2.1.code :: byteOf out.2.2 :: out.1.cursorBlock p)).release p).Permits p 12 := by
      rw [State.release_sendReply]
      have haccess : (out.1.release p).access = s.access := (State.release_access ..).trans (State.putWords_access p ws 0 s)
      simpa only [State.Permits, haccess] using hpermits
    have hsecond := exec_curvePut_of_permits hp (State.release_busy _ p) hpermits' hlo' (by omega) fun w hw =>
      hwords w (List.mem_append_right ws hw)
    rw [State.release_sendReply, State.putWords_release, ← hrest] at hsecond
    dsimp only at hsecond
    rw [State.release_cursorBlock] at hsecond
    rw [happend] at hwhole
    dsimp only at hwhole
    rw [← State.release_sendReply out.1 p (0x99#8 :: out.2.1.code :: byteOf out.2.2 :: out.1.cursorBlock p)] at hsecond
    refine ⟨_, _, rest.2.2, rest.2.1.code, rest.1.cursorBlock p, hsecond, ?_, hwhole, ?_, ?_⟩
    · rw [State.sendReply_port_same]
      rfl
    · rw [State.sendReply_port_same]
      rfl
    · rw [State.release_sendReply, State.release_sendReply, State.release_release]

end Sys2Proof.Machine

/-! SUPPORT. What any refresh leaves of a key's drive part, and a refresh that moves no target steps (R57, R126). -/

namespace Sys2Proof.Machine

/-! ### The drive part of a key whose target changes (R126, R127) -/

/-- A drive part once target changes have been handed on: it stands where it stood, and only an IDLE or QUEUED key changes its
state. -/
def Drive.HandedOn (a b : Drive) : Prop :=
  b.position = a.position ∧ (a.state ∈ [DriveState.unknown, .moving, .faulted] → b = a)

theorem Drive.HandedOn.refl (a : Drive) : a.HandedOn a := ⟨rfl, fun _ => rfl⟩

theorem Drive.HandedOn.trans {a b c : Drive} (h : a.HandedOn b) (h' : b.HandedOn c) : a.HandedOn c := by
  obtain ⟨hposition, hkept⟩ := h
  obtain ⟨hposition', hkept'⟩ := h'
  refine ⟨hposition'.trans hposition, fun hstate => ?_⟩
  have hsame := hkept hstate
  subst hsame
  exact hkept' hstate

theorem Drive.handedOn_toQueued (a : Drive) : a.HandedOn a.toQueued := by
  cases a <;> exact ⟨rfl, fun h => by simp_all [Drive.state, Drive.toQueued]⟩

theorem Drive.handedOn_toIdle (a : Drive) : a.HandedOn a.toIdle := by
  cases a <;> exact ⟨rfl, fun h => by simp_all [Drive.state, Drive.toIdle]⟩

/-- Every key of a tower once target changes have been handed on. -/
def Tower.HandedOn (a b : Tower) : Prop :=
  ∀ (k : Nat) (key : KeyRec), a.keys[k]? = some key → ∃ key' : KeyRec, b.keys[k]? = some key' ∧ key.drive.HandedOn key'.drive

theorem Tower.handedOn_of_keys {a b : Tower} (h : b.keys = a.keys) : a.HandedOn b :=
  fun _ key hkey => ⟨key, h ▸ hkey, .refl _⟩

theorem Tower.HandedOn.refl (a : Tower) : a.HandedOn a := Tower.handedOn_of_keys rfl

theorem Tower.HandedOn.trans {a b c : Tower} (h : a.HandedOn b) (h' : b.HandedOn c) : a.HandedOn c := fun k key hkey => by
  obtain ⟨key', hkey', hdrive⟩ := h k key hkey
  obtain ⟨key'', hkey'', hdrive'⟩ := h' k key' hkey'
  exact ⟨key'', hkey'', hdrive.trans hdrive'⟩

theorem Tower.handedOn_updateKey (tw : Tower) (k : Nat) {f : KeyRec → KeyRec}
    (hf : ∀ key : KeyRec, tw.keys[k]? = some key → key.drive.HandedOn (f key).drive) : tw.HandedOn (tw.updateKey k f) :=
  fun j key hkey => by
    rw [Tower.updateKey_keys, List.getElem?_modify, hkey]
    refine ⟨_, rfl, ?_⟩
    by_cases hj : k = j
    · subst hj
      simpa using hf key hkey
    · simpa [hj] using Drive.HandedOn.refl _

theorem Tower.handedOn_enqueue (tw : Tower) (k : Nat) : tw.HandedOn (tw.enqueue k) :=
  tw.handedOn_updateKey (f := fun key => { key with drive := key.drive.toQueued }) k fun key _ => key.drive.handedOn_toQueued

theorem Tower.handedOn_dequeue (tw : Tower) (k : Nat) : tw.HandedOn (tw.dequeue k) :=
  tw.handedOn_updateKey (f := fun key => { key with drive := key.drive.toIdle }) k fun key _ => key.drive.handedOn_toIdle

theorem Tower.handedOn_dispatchHead {tw tw' : Tower} (h : tw.dispatchHead = some tw') : tw.HandedOn tw' := by
  obtain ⟨k, rest, key, position, target, -, -, -, hkey, hdrive, -, rfl⟩ := Tower.dispatchHead_eq_some h
  refine Tower.handedOn_updateKey tw k (f := fun key => { key with
    drive := .moving position target.steps tw.config.drive.moveTimeout }) fun key' hkey' => ?_
  obtain rfl := Option.some.inj (hkey.symm.trans hkey')
  rw [hdrive]
  exact ⟨rfl, fun hstate => by simp [Drive.state] at hstate⟩

theorem Tower.handedOn_dispatch (tw : Tower) : tw.HandedOn tw.dispatch :=
  Tower.dispatch_keeps (Inv := tw.HandedOn) (fun _ _ h e => h.trans (Tower.handedOn_dispatchHead e)) (.refl _)

theorem Tower.handedOn_targetChange (tw : Tower) (k : Nat) : tw.HandedOn (tw.targetChange k) := by
  rcases tw.targetChange_cases k with ⟨-, h⟩ | ⟨_, _, -, -, -, h⟩ | ⟨_, _, _, -, -, -, -, h⟩ | ⟨-, -, h⟩ <;> rw [h]
  · rcases tw.seekTarget_cases k with ⟨-, -, h⟩ | ⟨-, h⟩ <;> rw [h]
    · exact (tw.handedOn_enqueue k).trans (Tower.handedOn_dispatch _)
    · exact .refl _
  · exact (tw.handedOn_dequeue k).trans (Tower.handedOn_of_keys (Tower.drainCheck_keys _))
  · exact .refl _
  · exact .refl _

theorem Tower.handedOn_refreshKey (curves : Vector (List Point) 16) (tw : Tower) (k : Nat) : tw.HandedOn (tw.refreshKey curves k) := by
  unfold Tower.refreshKey
  cases hkey : tw.keys[k]? with
  | none => exact .refl _
  | some key =>
    have hwritten : tw.HandedOn (tw.updateKey k fun _ => tw.presetKey curves k key) :=
      tw.handedOn_updateKey (f := fun _ => tw.presetKey curves k key) k fun key' hkey' => by
        obtain rfl := Option.some.inj (hkey.symm.trans hkey')
        rw [Tower.presetKey_drive]
        exact .refl _
    dsimp only
    split
    · exact hwritten
    · exact hwritten.trans (Tower.handedOn_targetChange _ _)

/-- A refresh leaves every key where it stands, and an UNKNOWN, MOVING or FAULTED key as it is (R126). -/
theorem Tower.handedOn_refresh (curves : Vector (List Point) 16) (ks : List Nat) (sweepToo : Bool) (tw : Tower) :
    tw.HandedOn (tw.refresh curves ks sweepToo) := by
  have hfold : tw.HandedOn (ks.foldl (Tower.refreshKey curves) tw) := by
    induction ks generalizing tw with
    | nil => exact .refl _
    | cons k ks ih => exact (tw.handedOn_refreshKey curves k).trans (ih _)
  unfold Tower.refresh
  split
  · exact hfold.trans (Tower.handedOn_of_keys (Tower.refreshSweep_keys _))
  · exact hfold

/-! ### A refresh that moves no target steps -/

section Still

variable (curves : Vector (List Point) 16)

/-- A refresh of keys whose target steps stay writes their records and hands nothing on, in any tower state (R57). -/
theorem Tower.refreshKeys_of_still {ks : List Nat} (hnodup : ks.Nodup) {tw : Tower}
    (hstill : ∀ k ∈ ks, ∀ key : KeyRec, tw.keys[k]? = some key → (tw.presetKey curves k key).steps = key.steps) :
    tw.refresh curves ks false =
      { tw with keys := tw.keys.mapIdx fun k key => if k ∈ ks then tw.presetKey curves k key else key } := by
  have hquiet : ∀ k ∈ ks, tw.joinsLine curves k = false ∧ tw.leavesLine curves k = false := fun k hk => by
    cases hkey : tw.keys[k]? with
    | none => simp [Tower.joinsLine, Tower.leavesLine, hkey]
    | some key =>
      have hsteps := hstill k hk key hkey
      rw [Tower.joinsLine_of_key curves hkey, Tower.leavesLine_of_key curves hkey, KeyRec.joins_eq_false (.inl hsteps),
        KeyRec.leaves_eq_false (.inl hsteps), Bool.and_false]
      exact ⟨rfl, rfl⟩
  refine Eq.trans ?_ (Tower.quietRefresh_of_still curves ks hquiet)
  show ks.foldl (Tower.refreshKey curves) tw = _
  clear hquiet
  induction ks generalizing tw with
  | nil => exact (tw.quietRefresh_nil curves).symm
  | cons k ks ih =>
    obtain ⟨hk, hrest⟩ := List.nodup_cons.mp hnodup
    have hfirst : tw.refreshKey curves k = tw.quietRefresh curves [k] := by
      cases hkey : tw.keys[k]? with
      | none =>
        rw [Tower.quietRefresh_of_no_key curves hkey]
        simp [Tower.refreshKey, hkey]
      | some key =>
        have hsteps := hstill k List.mem_cons_self key hkey
        rw [Tower.refreshKey_of_key curves hkey, Tower.joinsLine_of_key curves hkey, Tower.leavesLine_of_key curves hkey,
          KeyRec.joins_eq_false (.inl hsteps), KeyRec.leaves_eq_false (.inl hsteps), Bool.and_false, if_neg Bool.false_ne_true,
          if_neg Bool.false_ne_true]
    have hstill' : ∀ j ∈ ks, ∀ key : KeyRec, (tw.quietRefresh curves [k]).keys[j]? = some key →
        ((tw.quietRefresh curves [k]).presetKey curves j key).steps = key.steps := fun j hj key hkey => by
      have hne : j ≠ k := fun e => hk (e ▸ hj)
      rw [Tower.getElem?_quietRefresh] at hkey
      have hkey' : tw.keys[j]? = some key := by simpa [hne] using hkey
      exact hstill j (List.mem_cons_of_mem k hj) key hkey'
    rw [List.foldl_cons, hfirst, ih hrest hstill', ← Tower.quietRefresh_cons curves hk]

end Still

end Sys2Proof.Machine

/-! SUPPORT. CURVE CLEAR (R53, R62, R72). -/

namespace Sys2Proof.Machine

theorem State.earlyRefusal_curveClear {s : State} {p : MasterPort} (hp : p ≠ .scanner) (hpermits : s.Permits p 12) (b : Byte) :
    s.earlyRefusal p .curveClear [b] = none :=
  State.earlyRefusal_of_permits (portRank_le_one hp) rfl rfl hpermits

/-- A target that lies within the limits with its steps is held as it is (R61). -/
theorem heldOf_eq_self {c : TowerConfig} {g : Target} (hlo : c.metering.minOpen ≤ g.opening) (hhi : g.opening ≤ c.metering.maxOpen)
    (hsteps : g.steps = motorSteps c.geometry.f g.opening) : heldOf c g = g := by
  rw [heldOf_eq, heldTarget, if_neg (Nat.not_lt.mpr hlo), if_neg (Nat.not_lt.mpr hhi), ← hsteps]

theorem Tower.TargetsSound.map_heldOf {tw : Tower} (h : tw.TargetsSound) {key : KeyRec} (hkey : key ∈ tw.keys) :
    key.target.map (heldOf tw.config) = key.target := by
  cases htarget : key.target with
  | none => rfl
  | some g =>
    obtain ⟨hlo, hhi, hsteps, -⟩ := h key hkey g htarget
    rw [Option.map_some, heldOf_eq_self hlo hhi hsteps]

theorem Tower.mem_keysOn (tw : Tower) (c : CurveIx) (k : Nat) : k ∈ tw.keysOn c ↔ k < tw.z ∧ tw.curveOf k = c := by
  simp [Tower.keysOn, Tower.allKeys]

/-! ### The keys of one tower on an empty curve -/

section Cleared

variable {curves : Vector (List Point) 16} {c : CurveIx} (hempty : curves.get c = []) (tw : Tower)
include hempty

/-- A key on an empty curve holds its target (R61). -/
theorem Tower.presetKey_of_cleared {k : Nat} (hk : k ∈ tw.keysOn c) (key : KeyRec) : tw.presetKey curves k key =
    if tw.run.complete then { key with effective := some (tw.effectiveCoverage k), target := key.target.map (heldOf tw.config) }
    else { key with effective := none, target := none } := by
  obtain ⟨-, hcurve⟩ := (tw.mem_keysOn c k).mp hk
  have hshort : (curves.get (tw.curveOf k)).length < 2 := by
    rw [hcurve, hempty]
    exact Nat.zero_lt_two
  cases hcomplete : tw.run.complete with
  | true => rw [Tower.presetKey_of_complete hcomplete, Tower.presetTarget_of_incomplete hshort, if_pos rfl]
  | false => rw [Tower.presetKey_of_incomplete hcomplete, if_neg Bool.false_ne_true]

/-- A clear logs a fault for a tower with a key on the curve while its RUN slot is COMPLETE (R62). -/
theorem Tower.holdsAny_of_cleared : tw.holdsAny curves (tw.keysOn c) =
    (tw.run.complete && (List.range tw.z).any fun k => decide (tw.curveOf k = c)) := by
  have hany : ((tw.keysOn c).any fun k => !usable (curves.get (tw.curveOf k))) =
      (List.range tw.z).any fun k => decide (tw.curveOf k = c) := by
    rw [Bool.eq_iff_iff, List.any_eq_true, List.any_eq_true]
    constructor
    · rintro ⟨k, hk, -⟩
      obtain ⟨hlt, hcurve⟩ := (tw.mem_keysOn c k).mp hk
      exact ⟨k, List.mem_range.mpr hlt, decide_eq_true hcurve⟩
    · rintro ⟨k, hk, hcurve⟩
      have hcurve' := of_decide_eq_true hcurve
      exact ⟨k, (tw.mem_keysOn c k).mpr ⟨List.mem_range.mp hk, hcurve'⟩, by rw [hcurve', hempty]; rfl⟩
  rw [Tower.holdsAny, hany]

variable (hlength : tw.keys.length = tw.z)
include hlength

/-- What a clear leaves of a key: but for its drive part, what the computation gives a key on the curve, and any other as it
was (R53, R72). -/
theorem Tower.cleared_key {k : Nat} {key : KeyRec} (hkey : tw.keys[k]? = some key) :
    ∃ key' : KeyRec, (tw.refresh curves (tw.keysOn c) false).keys[k]? = some key' ∧
      key'.trim = key.trim ∧ key'.acc = key.acc ∧ key'.settleUntil = key.settleUntil ∧ key'.drive.position = key.drive.position ∧
      (tw.curveOf k ≠ c → key'.target = key.target ∧ key'.effective = key.effective) ∧
      (tw.curveOf k = c → tw.run.complete = true →
        key'.target = key.target.map (heldOf tw.config) ∧ key'.effective = some (tw.effectiveCoverage k)) ∧
      (tw.curveOf k = c → tw.run.complete = false → key'.target = none ∧ key'.effective = none) := by
  have hlt : k < tw.z := hlength ▸ (List.getElem?_eq_some_iff.mp hkey).1
  obtain ⟨key', hkey', hposition, -⟩ := tw.handedOn_refresh curves (tw.keysOn c) false k key hkey
  have hrecord := Tower.refresh_key curves (tw.keysOn_nodup c) false tw k
  rw [hkey, hkey', Option.map_some, Option.map_some] at hrecord
  have hundriven := Option.some.inj hrecord
  have hside : k ∈ tw.keysOn c ↔ tw.curveOf k = c := (tw.mem_keysOn c k).trans (and_iff_right hlt)
  have hfields : ∀ a b : KeyRec, a.undriven = b.undriven →
      a.target = b.target ∧ a.effective = b.effective ∧ a.trim = b.trim ∧ a.acc = b.acc ∧ a.settleUntil = b.settleUntil :=
    fun a b h => by simpa [KeyRec.undriven] using h
  refine ⟨key', hkey', ?_⟩
  by_cases hk : tw.curveOf k = c
  · rw [if_pos (hside.mpr hk), Tower.presetKey_of_cleared hempty tw (hside.mpr hk)] at hundriven
    cases hcomplete : tw.run.complete with
    | true =>
      rw [hcomplete, if_pos rfl] at hundriven
      obtain ⟨htarget, heffective, htrim, hacc, hsettle⟩ := hfields _ _ hundriven
      exact ⟨htrim, hacc, hsettle, hposition, fun h => absurd hk h, fun _ _ => ⟨htarget, heffective⟩, fun _ h => Bool.noConfusion h⟩
    | false =>
      rw [hcomplete, if_neg Bool.false_ne_true] at hundriven
      obtain ⟨htarget, heffective, htrim, hacc, hsettle⟩ := hfields _ _ hundriven
      exact ⟨htrim, hacc, hsettle, hposition, fun h => absurd hk h, fun _ h => Bool.noConfusion h, fun _ _ => ⟨htarget, heffective⟩⟩
  · rw [if_neg (mt hside.mp hk)] at hundriven
    obtain ⟨htarget, heffective, htrim, hacc, hsettle⟩ := hfields _ _ hundriven
    exact ⟨htrim, hacc, hsettle, hposition, fun _ => ⟨htarget, heffective⟩, fun h => absurd h hk, fun h => absurd h hk⟩

/-- Where every target held is sound, a clear writes the effective coverages and hands nothing on (R61). -/
theorem Tower.cleared_of_sound (hcomplete : tw.run.complete = true) (hsound : tw.TargetsSound) :
    tw.refresh curves (tw.keysOn c) false = { tw with
      keys := tw.keys.mapIdx fun k (key : KeyRec) =>
        if tw.curveOf k = c then { key with effective := some (tw.effectiveCoverage k) } else key } := by
  have hpreset : ∀ (k : Nat) (key : KeyRec), k ∈ tw.keysOn c → tw.keys[k]? = some key →
      tw.presetKey curves k key = { key with effective := some (tw.effectiveCoverage k) } := fun k key hk hkey => by
    rw [Tower.presetKey_of_cleared hempty tw hk, if_pos hcomplete, hsound.map_heldOf (List.mem_of_getElem? hkey)]
  rw [Tower.refreshKeys_of_still curves (tw.keysOn_nodup c) fun k hk key hkey => by rw [hpreset k key hk hkey]; rfl]
  congr 1
  refine List.ext_getElem? fun k => ?_
  rw [List.getElem?_mapIdx, List.getElem?_mapIdx]
  cases hkey : tw.keys[k]? with
  | none => rfl
  | some key =>
    have hlt : k < tw.z := hlength ▸ (List.getElem?_eq_some_iff.mp hkey).1
    have hside : k ∈ tw.keysOn c ↔ tw.curveOf k = c := (tw.mem_keysOn c k).trans (and_iff_right hlt)
    by_cases hk : tw.curveOf k = c
    · simp [hk, hside.mpr hk, hpreset k key (hside.mpr hk) hkey]
    · simp [hk, mt hside.mp hk]

omit hempty hlength in
/-- A clear changes nothing of a tower that has nothing computed. -/
theorem Tower.cleared_of_incomplete (hincomplete : tw.run.complete = false)
    (hnone : ∀ key ∈ tw.keys, key.target = none ∧ key.effective = none) : tw.refresh curves (tw.keysOn c) false = tw := by
  have hpreset : ∀ (k : Nat) (key : KeyRec), tw.keys[k]? = some key → tw.presetKey curves k key = key := fun k key hkey => by
    obtain ⟨htarget, heffective⟩ := hnone key (List.mem_of_getElem? hkey)
    rw [Tower.presetKey_of_incomplete hincomplete]
    cases key
    simp_all
  rw [Tower.refreshKeys_of_still curves (tw.keysOn_nodup c) fun k _ key hkey => by rw [hpreset k key hkey]]
  have hkeys : (tw.keys.mapIdx fun k key => if k ∈ tw.keysOn c then tw.presetKey curves k key else key) = tw.keys :=
    List.ext_getElem? fun k => by
      rw [List.getElem?_mapIdx]
      cases hkey : tw.keys[k]? with
      | none => rfl
      | some key => simp [hpreset k key hkey]
  rw [hkeys]

end Cleared

/-- The machine once a curve is cleared (R53). -/
def State.clearedCurve (s : State) (c : CurveIx) : State := ((s.setCurve c []).resetCursors c).refreshCurve c

/-- What a clear leaves of the machine. -/
theorem State.clearedCurve_spec (s : State) (c : CurveIx) :
    let u := s.clearedCurve c
    u.pending = s.pending ∧ u.sheets = s.sheets ∧ u.access = s.access ∧ u.restartPending = s.restartPending ∧
      u.curve c = [] ∧ (∀ d, d ≠ c → u.curve d = s.curve d) ∧
      (∀ q, u.port q = { s.port q with cursor := (s.port q).cursor.clearedFor c }) ∧
      (∀ t, u.tower t = (s.tower t).refresh u.curves ((s.tower t).keysOn c) false) ∧
      u.faults = ((List.finRange 12).filter fun t => (s.tower t).holdsAny u.curves ((s.tower t).keysOn c)).foldl
        (fun l t => l.log .curveIncomplete (.tower t) s.sheets) s.faults := by
  intro u
  obtain ⟨hpending, hsheets, hcurves, hmasters, haccess, hrestart, htower⟩ := ((s.setCurve c []).resetCursors c).refreshCurve_spec c
  have hfaults := ((s.setCurve c []).resetCursors c).refreshCurve_faults c
  have hport : ∀ q, (s.setCurve c []).port q = s.port q := fun q => by cases q <;> rfl
  rw [← hcurves] at hfaults htower
  refine ⟨hpending.trans rfl, hsheets.trans rfl, haccess.trans rfl, hrestart.trans rfl, ?_, fun d hd => ?_, fun q => ?_,
    htower, hfaults⟩
  · exact (State.refreshCurve_curve _ _ _).trans (State.curve_setCurve_same s c [])
  · exact (State.refreshCurve_curve _ _ _).trans (State.curve_setCurve_of_ne s [] hd)
  · refine (State.port_of_masters hmasters q).trans ?_
    rw [State.resetCursors_port, hport]

/-- Settles O32. -/
theorem curveClearEmptiesCurve : Obligations.CurveClearEmptiesCurve := by
  refine ⟨fun p c b s hp hfree hpermits hb hsound => ?_, fun p b s hp hfree hpermits hb => ?_⟩
  · obtain ⟨hcurvesSound, hcursorsSound⟩ := hsound
    have htake : takeCurveClear p [b] s = .ok (s.clearedCurve c, .ok, (s.clearedCurve c).cursorBlock p) := by
      simp only [takeCurveClear, readCurve_of_toNat hb]
      rfl
    have hexec := exec_of_ok (fn := .curveClear) hfree (State.earlyRefusal_curveClear hp hpermits b) htake
    obtain ⟨hpending, hsheets, haccess, hrestart, hcurve, hcurves, hport, htower, hfaults⟩ := s.clearedCurve_spec c
    generalize s.clearedCurve c = u at hexec hpending hsheets haccess hrestart hcurve hcurves hport htower hfaults
    have hempty : u.curves.get c = [] := hcurve
    have hcursor : (u.port p).cursor.Sound := by
      rw [hport]
      exact Cursor.clearedFor_sound (hcursorsSound p) c
    have hpoints : (u.curve (u.port p).cursor.curve).length ≤ 12 := by
      by_cases hd : (u.port p).cursor.curve = c
      · rw [hd, hcurve]
        exact Nat.zero_le _
      · rw [hcurves _ hd]
        exact (hcurvesSound _).1
    obtain ⟨hindex, hhalf⟩ := hcursor
    have hheld : ∀ held, (u.port p).cursor.phase = .half held → held ≤ 65535 := fun held h => by
      simp only [h] at hhalf
      omega
    have hfields := Cursor.block_fields (c := (u.port p).cursor) (Nat.le_trans hindex (by decide)) hheld
      (Nat.le_trans hpoints (by decide)) [0x9B#8, 0x00#8] []
    rw [List.append_nil] at hfields
    refine ⟨_, _, hexec, by rw [State.sendReply_port_same], ?_, rfl, ?_, ?_, fun d hd => ?_, fun q => ?_, ?_, ?_, ?_, ?_, ?_⟩
    · rw [State.cursorBlock_eq, List.length_cons, List.length_cons, Cursor.block_length]
    · rw [State.sendReply_cursor, State.sendReply_curve]
      exact hfields
    · rw [State.sendReply_curve]
      exact hcurve
    · rw [State.sendReply_curve]
      exact hcurves d hd
    · rw [State.sendReply_ctx, State.sendReply_cursor]
      refine ⟨by rw [hport], fun hq => ?_, fun hnamed => ?_, fun hother => ?_⟩
      · rw [State.sendReply_port_of_ne _ _ hq, hport]
        exact ⟨rfl, rfl⟩
      · rw [hport, ← hnamed]
        exact if_pos rfl
      · rw [hport]
        exact if_neg hother
    · rw [State.sendReply_pending]
      exact hpending
    · rw [State.sendReply_sheets]
      exact hsheets
    · rw [State.sendReply_access]
      exact haccess
    · rw [State.sendReply_restartPending]
      exact hrestart
    · intro side
      have hside : ∀ t k, side t k ↔ (s.tower t).curveOf k = c := fun t k => Iff.rfl
      refine ⟨?_, fun t => ?_⟩
      · rw [State.sendReply_faults, hfaults]
        simp only [Tower.holdsAny_of_cleared hempty]
        rfl
      · rw [State.sendReply_tower, htower]
        refine ⟨fun ha hb => ?_, fun hlength => ⟨?_, ?_, fun k key hkey => ?_, fun hcomplete _ htargets => ?_, fun hincomplete hnone => ?_⟩⟩
        · rw [Tower.keysOn_eq_nil ha hb, Tower.refresh_nil]
        · exact (Tower.refreshKeys_spec u.curves ((s.tower t).keysOn_nodup c) (s.tower t)).1
        · exact (Tower.keeps_refresh u.curves _ false _).length
        · exact Tower.cleared_key hempty (s.tower t) hlength hkey
        · exact Tower.cleared_of_sound hempty (s.tower t) hlength hcomplete htargets
        · exact Tower.cleared_of_incomplete (s.tower t) hincomplete hnone
  · refine exec_of_error (fn := .curveClear) (r := .range) hfree (State.earlyRefusal_curveClear hp hpermits b) ?_
    simp only [takeFunction, takeCurveClear, readCurve_none hb]

end Sys2Proof.Machine

/-! SUPPORT. The lateral spread and the curve lookup as formulas (R59, R60). -/

namespace Sys2Proof.Machine

/-! ### The lateral spread (R59) -/

/-- Key j of the duct feeds key k: it exists, and stands on the same side of the split (R59). -/
def Tower.feeds (tw : Tower) (k : Nat) (j : Int) : Bool :=
  decide (0 ≤ j ∧ j < tw.z ∧ (j < tw.config.metering.split ↔ k < tw.config.metering.split))

/-- What a key j adds to a sum over the keys that feed key k. -/
def Tower.share (tw : Tower) (k : Nat) (g : Nat × Nat → Nat) (j : Int) (w : Nat) : Nat :=
  if tw.feeds k j then g (j.toNat, w) else 0

theorem sum_map_filter {α : Type} (P : α → Bool) (g : α → Nat) (l : List α) :
    ((l.filter P).map g).sum = (l.map fun a => if P a then g a else 0).sum := by
  induction l with
  | nil => rfl
  | cons a l ih => cases h : P a <;> simp [h, ih]

section Spread

variable (tw : Tower) (k : Nat) (g : Nat × Nat → Nat)

theorem Tower.feeds_natCast (j : Nat) : tw.feeds k j = (decide (j < tw.z) && sameRegion tw.config.metering.split j k) := by
  unfold Tower.feeds sameRegion
  rw [Bool.eq_iff_iff]
  simp

theorem Tower.share_of_key (j w : Nat) : tw.share k g j w =
    if (decide (j < tw.z) && sameRegion tw.config.metering.split j k) then g (j, w) else 0 := by
  rw [Tower.share, Tower.feeds_natCast, Int.toNat_natCast]

/-- The duct's near end is a wall. -/
theorem Tower.share_below (d w : Nat) : tw.share k g ((k : Int) + -(d : Int)) w =
    ((if d ≤ k then [(k - d, w)] else []).map fun jw : Nat × Nat =>
      if (decide (jw.1 < tw.z) && sameRegion tw.config.metering.split jw.1 k) then g jw else 0).sum := by
  by_cases h : d ≤ k
  · have hcast : (k : Int) + -(d : Int) = ((k - d : Nat) : Int) := by omega
    rw [hcast, Tower.share_of_key, if_pos h]
    simp
  · have hwall : tw.feeds k ((k : Int) + -(d : Int)) = false := by
      simp only [Tower.feeds, decide_eq_false_iff_not]
      omega
    rw [Tower.share, hwall, if_neg h]
    rfl

/-- A sum over the keys that feed key k, neighbour by neighbour. -/
theorem Tower.sum_spread : ((tw.spread k).map g).sum =
    tw.share k g ((k : Int) + -2) tw.config.metering.w2 + tw.share k g ((k : Int) + -1) tw.config.metering.w1 +
      tw.share k g ((k : Int) + 0) tw.config.metering.w0 + tw.share k g ((k : Int) + 1) tw.config.metering.w1 +
      tw.share k g ((k : Int) + 2) tw.config.metering.w2 := by
  have hat : tw.share k g ((k : Int) + 0) tw.config.metering.w0 = _ :=
    (congrArg (tw.share k g · _) (Int.add_zero _)).trans (tw.share_of_key k g k _)
  have hone : tw.share k g ((k : Int) + 1) tw.config.metering.w1 = _ := tw.share_of_key k g (k + 1) _
  have htwo : tw.share k g ((k : Int) + 2) tw.config.metering.w2 = _ := tw.share_of_key k g (k + 2) _
  have hbelow := fun d w => tw.share_below k g d w
  have hless := hbelow 1 tw.config.metering.w1
  have hlesser := hbelow 2 tw.config.metering.w2
  rw [hat, hone, htwo, show (-1 : Int) = -((1 : Nat) : Int) from rfl, show (-2 : Int) = -((2 : Nat) : Int) from rfl, hless, hlesser]
  unfold Tower.spread
  rw [sum_map_filter, List.map_append, List.map_append, List.sum_append, List.sum_append]
  simp only [List.map_cons, List.map_nil, List.sum_cons, List.sum_nil]
  omega

end Spread

/-! ### The curve lookup (R60) -/

/-- The line between two points, rising and falling, rounded half away from zero. -/
theorem between_eq {q r : Point} {e : Nat} (hqe : q.coverage ≤ e) :
    (q.opening ≤ r.opening →
      between q r e = q.opening + roundHalfUp ((r.opening - q.opening) * (e - q.coverage)) (r.coverage - q.coverage)) ∧
    (r.opening < q.opening →
      between q r e = q.opening - roundHalfUp ((q.opening - r.opening) * (e - q.coverage)) (r.coverage - q.coverage)) := by
  have he : (e : Int) - q.coverage = ((e - q.coverage : Nat) : Int) := by omega
  refine ⟨fun hrise => ?_, fun hfall => ?_⟩
  · have hproduct : ((r.opening : Int) - q.opening) * ((e : Int) - q.coverage) = (((r.opening - q.opening) * (e - q.coverage) : Nat) : Int) := by
      rw [he, Nat.cast_mul, Nat.cast_sub hrise]
    rw [between, hproduct, roundAway, if_pos (Int.natCast_nonneg _), Int.natAbs_natCast]
    omega
  · have hproduct : ((r.opening : Int) - q.opening) * ((e : Int) - q.coverage) = -(((q.opening - r.opening) * (e - q.coverage) : Nat) : Int) := by
      rw [he, Nat.cast_mul, Nat.cast_sub (Nat.le_of_lt hfall)]
      ring
    have hround : roundAway (-(((q.opening - r.opening) * (e - q.coverage) : Nat) : Int)) (r.coverage - q.coverage) =
        -(roundHalfUp ((q.opening - r.opening) * (e - q.coverage)) (r.coverage - q.coverage) : Int) := by
      by_cases hzero : (q.opening - r.opening) * (e - q.coverage) = 0
      · have hnothing : (roundHalfUp 0 (r.coverage - q.coverage) : Int) = 0 := by
          rw [roundHalfUp, Nat.mul_zero, Nat.zero_add, Nat.cast_eq_zero, Nat.div_eq_zero_iff]
          omega
        rw [hzero, roundAway, if_pos (by simp), hnothing]
        simpa using hnothing
      · rw [roundAway, if_neg (by omega), Int.natAbs_neg, Int.natAbs_natCast]
    rw [between, hproduct, hround]
    omega

/-- At or above the last point the opening is the last one's. -/
theorem openingFrom_of_last {p q : Point} {rest : List Point} {e : Nat} (hq : (p :: rest)[rest.length]? = some q)
    (hall : ∀ r ∈ rest, r.coverage ≤ e) : openingFrom p rest e = q.opening := by
  induction rest generalizing p with
  | nil =>
    obtain rfl : p = q := by simpa using hq
    rfl
  | cons r rest ih =>
    rw [openingFrom, if_neg (Nat.not_lt.mpr (hall r List.mem_cons_self))]
    exact ih (by simpa using hq) fun a ha => hall a (List.mem_cons_of_mem r ha)

/-- Between two neighbours the opening lies on their line. -/
theorem openingFrom_of_between {p q r : Point} {rest : List Point} {e i : Nat}
    (hascending : (p :: rest).Pairwise fun a b => a.coverage < b.coverage) (hq : (p :: rest)[i]? = some q)
    (hr : (p :: rest)[i + 1]? = some r) (hqe : q.coverage ≤ e) (her : e < r.coverage) : openingFrom p rest e = between q r e := by
  induction rest generalizing p i with
  | nil => simp at hr
  | cons a rest ih =>
    cases i with
    | zero =>
      obtain rfl : p = q := by simpa using hq
      obtain rfl : a = r := by simpa using hr
      rw [openingFrom, if_pos her]
    | succ i =>
      have hrest := (List.pairwise_cons.mp hascending).2
      have hq' : (a :: rest)[i]? = some q := by simpa using hq
      have hae : a.coverage ≤ e := by
        rcases List.mem_cons.mp (List.mem_of_getElem? hq') with rfl | hmem
        · exact hqe
        · have := (List.pairwise_cons.mp hrest).1 q hmem
          omega
      rw [openingFrom, if_neg (Nat.not_lt.mpr hae)]
      exact ih hrest hq' (by simpa using hr)

/-- Settles O34. -/
theorem effectiveCoverageAndLookup : Obligations.EffectiveCoverageAndLookup := by
  refine ⟨fun tw k hconfig hrun hk => ?_, fun points e hsound hlength => ?_⟩
  · intro m inRegion weight part n d
    have hn : ((tw.spread k).map fun jw => jw.2 * tw.coverageUnder jw.1).sum = n := by
      rw [Tower.sum_spread]
      have hshare : ∀ (j : Int) (w : Nat), tw.share k (fun jw => jw.2 * tw.coverageUnder jw.1) (k + j) w = part j w := fun j w => by
        show (if inRegion (k + j) then w * tw.coverageUnder (k + j).toNat else 0) =
          (if inRegion (k + j) then w else 0) * tw.coverageUnder (k + j).toNat
        rw [ite_mul, Nat.zero_mul]
      simp only [hshare]
      rfl
    have hd : ((tw.spread k).map Prod.snd).sum = d := tw.sum_spread k Prod.snd
    have hpos := Tower.weights_pos hconfig hk
    refine ⟨?_, Tower.effectiveCoverage_le hconfig hrun hk, hd ▸ hpos⟩
    rw [Tower.effectiveCoverage, hn, hd, roundHalfUp]
  · obtain ⟨-, hascending, hvalues⟩ := hsound
    obtain ⟨p, rest, rfl⟩ := List.exists_cons_of_length_pos (Nat.lt_of_lt_of_le Nat.zero_lt_two hlength)
    have hfrom : p.coverage ≤ e → openingAt (p :: rest) e = openingFrom p rest e := fun h => if_neg (Nat.not_lt.mpr h)
    have hfirst : ∀ q ∈ p :: rest, p.coverage ≤ q.coverage := fun q hq => by
      rcases List.mem_cons.mp hq with rfl | hmem
      · exact Nat.le_refl _
      · exact Nat.le_of_lt ((List.pairwise_cons.mp hascending).1 q hmem)
    refine ⟨openingAt_le (fun q hq => (hvalues q hq).2) e, fun q hq hlow => ?_, fun q hq hhigh => ?_,
      fun i q r hq hr hqe her => ?_⟩
    · obtain rfl : p = q := by simpa using hq
      exact if_pos hlow
    · have hmem := List.mem_of_getElem? hq
      rw [hfrom (Nat.le_trans (hfirst q hmem) hhigh)]
      have hlast : (p :: rest)[rest.length]? = some q := hq
      refine openingFrom_of_last hlast fun r hr => ?_
      obtain ⟨j, hj, rfl⟩ := List.getElem_of_mem (List.mem_cons_of_mem p hr)
      obtain ⟨hlt, rfl⟩ := List.getElem?_eq_some_iff.mp hlast
      rcases Nat.lt_or_ge j rest.length with hjlt | hjge
      · exact Nat.le_trans (Nat.le_of_lt (List.pairwise_iff_getElem.mp hascending j _ hj hlt hjlt)) hhigh
      · obtain rfl : j = rest.length := by
          rw [List.length_cons] at hj
          omega
        exact hhigh
    · have hbetween := (hfrom (Nat.le_trans (hfirst q (List.mem_of_getElem? hq)) hqe)).trans
        (openingFrom_of_between hascending hq hr hqe her)
      obtain ⟨hlo, hhi⟩ := between_mem hqe her
      obtain ⟨hrise, hfall⟩ := between_eq (r := r) hqe
      rw [hbetween]
      refine ⟨fun h => ⟨hrise h, ?_⟩, fun h => ⟨hfall h, ?_⟩⟩
      · rwa [Nat.max_eq_right h] at hhi
      · rwa [Nat.min_eq_right (Nat.le_of_lt h)] at hlo

end Sys2Proof.Machine

/-! SUPPORT. What the entries of a MEASURE count and leave (R100, R102, R104). -/

namespace Sys2Proof.Machine

/-! ### Counts (R102) -/

/-- Two counts together. -/
def LoopCounters.sum (a b : LoopCounters) : LoopCounters where
  applied := a.applied + b.applied
  settleSkipped := a.settleSkipped + b.settleSkipped
  deadbandSkipped := a.deadbandSkipped + b.deadbandSkipped
  stateSkipped := a.stateSkipped + b.stateSkipped

/-- The entries a count covers. -/
def LoopCounters.total (a : LoopCounters) : Nat := a.applied + a.settleSkipped + a.deadbandSkipped + a.stateSkipped

theorem LoopCounters.sum_assoc (a b c : LoopCounters) : (a.sum b).sum c = a.sum (b.sum c) := by
  simp [LoopCounters.sum, Nat.add_assoc]

theorem LoopCounters.total_sum (a b : LoopCounters) : (a.sum b).total = a.total + b.total := by
  simp only [LoopCounters.sum, LoopCounters.total]
  omega

/-- Saturating counters take counts together or one after another (R104). -/
theorem LoopCounters.plus_plus (c a b : LoopCounters) : (c.plus a).plus b = c.plus (a.sum b) := by
  simp only [LoopCounters.plus, LoopCounters.sum, LoopCounters.mk.injEq]
  omega

/-! ### One entry (R96, R100) -/

section Entry

variable (s : State) (t : TowerIx) (sheet : Sheet) (k : Nat) (value : Int)

/-- An entry counts once, whatever was counted before. -/
theorem State.measureEntry_counts (n : MeasureCounts) : s.measureEntry t sheet k value n =
    ((s.measureEntry t sheet k value .zero).1, n.sum (s.measureEntry t sheet k value .zero).2) := by
  unfold State.measureEntry
  dsimp only
  split
  · split_ifs <;> rfl
  · rfl

theorem State.measureEntry_total : (s.measureEntry t sheet k value .zero).2.total = 1 := by
  unfold State.measureEntry
  dsimp only
  split
  · split_ifs <;> rfl
  · rfl

end Entry

section Entries

variable (t : TowerIx) (sheet : Sheet)

theorem State.measureEntries_counts (entries : List (Nat × Int)) (n : MeasureCounts) (s : State) :
    State.measureEntries t sheet entries n s =
      ((State.measureEntries t sheet entries .zero s).1, n.sum (State.measureEntries t sheet entries .zero s).2) := by
  induction entries generalizing n s with
  | nil => rfl
  | cons e rest ih =>
    simp only [State.measureEntries]
    rw [s.measureEntry_counts t sheet e.1 e.2 n, ih]
    conv_rhs => rw [ih (s.measureEntry t sheet e.1 e.2 .zero).2]
    rw [LoopCounters.sum_assoc]

theorem State.measureEntries_append (entries rest : List (Nat × Int)) (n : MeasureCounts) (s : State) :
    State.measureEntries t sheet (entries ++ rest) n s =
      State.measureEntries t sheet rest (State.measureEntries t sheet entries n s).2 (State.measureEntries t sheet entries n s).1 := by
  induction entries generalizing n s with
  | nil => rfl
  | cons e entries ih => exact ih _ _

/-- Every entry counts under one of the four classes (R102). -/
theorem State.measureEntries_total (entries : List (Nat × Int)) (s : State) :
    (State.measureEntries t sheet entries .zero s).2.total = entries.length := by
  induction entries generalizing s with
  | nil => rfl
  | cons e rest ih =>
    simp only [State.measureEntries]
    rw [State.measureEntries_counts, LoopCounters.total_sum, ih, State.measureEntry_total, List.length_cons]
    omega

end Entries

/-! ### What entries leave of the machine -/

/-- Entries of a MEASURE change nothing but the keys, the queue, the messages and the faults of their tower, and leave a PRINTING
tower PRINTING (R97, R118). -/
def State.MeasuredFrom (t : TowerIx) (s u : State) : Prop :=
  SameBut t s u ∧ u.masters = s.masters ∧ (u.tower t).config = (s.tower t).config ∧ (u.tower t).counters = (s.tower t).counters ∧
    ((s.tower t).state = .printing → (u.tower t).state = .printing)

theorem State.MeasuredFrom.refl (t : TowerIx) (s : State) : s.MeasuredFrom t s :=
  ⟨⟨rfl, rfl, rfl, rfl, rfl, fun _ _ => rfl⟩, rfl, rfl, rfl, id⟩

theorem State.MeasuredFrom.trans {t : TowerIx} {s u v : State} (h : State.MeasuredFrom t s u) (h' : State.MeasuredFrom t u v) :
    State.MeasuredFrom t s v := by
  obtain ⟨hsame, hmasters, hconfig, hcounters, hstate⟩ := h
  obtain ⟨hsame', hmasters', hconfig', hcounters', hstate'⟩ := h'
  exact ⟨hsame.trans hsame', hmasters'.trans hmasters, hconfig'.trans hconfig, hcounters'.trans hcounters, fun h => hstate' (hstate h)⟩

theorem State.putAcc_measuredFrom (s : State) (t : TowerIx) (k : Nat) (old v : Int) : State.MeasuredFrom t s (s.putAcc t k old v) := by
  unfold State.putAcc
  split
  · exact .refl t s
  · set stored : Tower := (s.tower t).updateKey k fun key => { key with acc := v }
    obtain ⟨hconfig, -, -, hcounters, -⟩ := Tower.refresh_leaves s.curves (List.nodup_singleton k) false stored
    have htower : ((s.setTower t stored).refreshKey t k).tower t = stored.refresh s.curves [k] false := by
      rw [State.refreshKey, State.refresh_tower_same, State.tower_setTower_same, State.setTower_curves]
    refine ⟨(s.setTower_sameBut t stored).refresh _ _, State.refresh_masters .., ?_, ?_, fun hprinting => ?_⟩
    · rw [htower, hconfig]
      rfl
    · rw [htower, hcounters]
      rfl
    · rw [htower]
      rcases Tower.refresh_state s.curves [k] false stored with h | ⟨h, -⟩
      · exact h.trans hprinting
      · exact absurd (hprinting.symm.trans h) (by decide)

theorem State.measureEntry_measuredFrom (s : State) (t : TowerIx) (sheet : Sheet) (k : Nat) (value : Int) (n : MeasureCounts) :
    State.MeasuredFrom t s (s.measureEntry t sheet k value n).1 := by
  unfold State.measureEntry
  dsimp only
  split
  · split_ifs
    · exact .refl t s
    · exact .refl t s
    · exact .refl t s
    · exact s.putAcc_measuredFrom t k _ _
  · exact .refl t s

theorem State.measureEntries_measuredFrom (t : TowerIx) (sheet : Sheet) (entries : List (Nat × Int)) (n : MeasureCounts) (s : State) :
    State.MeasuredFrom t s (State.measureEntries t sheet entries n s).1 := by
  induction entries generalizing n s with
  | nil => exact .refl t s
  | cons e rest ih => exact (s.measureEntry_measuredFrom t sheet e.1 e.2 n).trans (ih _ _)

/-! ### The loop counters take no part in what entries do -/

/-- The tower with other loop counters. -/
def Tower.recounted (tw : Tower) (c : LoopCounters) : Tower := { tw with counters := c }

section Recounted

variable (curves : Vector (List Point) 16) (tw : Tower) (c : LoopCounters)

theorem Tower.sweepCheck_recounted : (tw.recounted c).sweepCheck = tw.sweepCheck.recounted c := by
  rw [Tower.sweepCheck_eq, Tower.sweepCheck_eq]
  rfl

theorem Tower.drainCheck_recounted : (tw.recounted c).drainCheck = tw.drainCheck.recounted c := by
  unfold Tower.drainCheck
  by_cases h : tw.state = .presetting ∧ tw.queue = [] ∧ tw.moving = 0
  · rw [if_pos h, if_pos (show (tw.recounted c).state = _ ∧ (tw.recounted c).queue = [] ∧ (tw.recounted c).moving = 0 from h)]
    exact Tower.sweepCheck_recounted { tw with state := .printing } c
  · rw [if_neg h, if_neg (show ¬((tw.recounted c).state = _ ∧ (tw.recounted c).queue = [] ∧ (tw.recounted c).moving = 0) from h)]

theorem Tower.dispatchHead_of_head {tw : Tower} {k q : Nat} {rest : List Nat} {key : KeyRec} {g : Target}
    (hqueue : tw.queue = k :: rest) (hrunning : tw.running = true) (hslot : tw.moving < tw.config.drive.concurrency)
    (hkey : tw.keys[k]? = some key) (hdrive : key.drive = .queued q) (htarget : key.target = some g) :
    tw.dispatchHead = some (({ tw with queue := rest, moving := tw.moving + 1 }.setDrive k
      (.moving q g.steps tw.config.drive.moveTimeout)).send (.move k g.steps)) := by
  simp [Tower.dispatchHead, hqueue, hrunning, hslot, hkey, hdrive, htarget]

theorem Tower.dispatchHead_recounted : (tw.recounted c).dispatchHead = tw.dispatchHead.map (Tower.recounted · c) := by
  cases h : tw.dispatchHead with
  | some tw' =>
    obtain ⟨k, rest, key, q, g, hqueue, hrunning, hslot, hkey, hdrive, htarget, rfl⟩ := Tower.dispatchHead_eq_some h
    exact Tower.dispatchHead_of_head (tw := tw.recounted c) hqueue hrunning hslot hkey hdrive htarget
  | none =>
    cases h' : (tw.recounted c).dispatchHead with
    | none => rfl
    | some u =>
      obtain ⟨k, rest, key, q, g, hqueue, hrunning, hslot, hkey, hdrive, htarget, -⟩ := Tower.dispatchHead_eq_some h'
      have hhead := Tower.dispatchHead_of_head (tw := tw) hqueue hrunning hslot hkey hdrive htarget
      rw [h] at hhead
      cases hhead

theorem Tower.dispatch_recounted : (tw.recounted c).dispatch = tw.dispatch.recounted c := by
  have hturns : ∀ (n : Nat) (tw : Tower), Tower.dispatchTurns n (tw.recounted c) = (Tower.dispatchTurns n tw).recounted c := fun n => by
    induction n with
    | zero => exact fun _ => rfl
    | succ n ih =>
      intro tw
      rw [Tower.dispatchTurns, Tower.dispatchTurns, Tower.dispatchHead_recounted]
      cases tw.dispatchHead with
      | none => rfl
      | some tw' => exact ih tw'
  exact hturns _ tw

theorem Tower.refreshKey_recounted (k : Nat) : (tw.recounted c).refreshKey curves k = (tw.refreshKey curves k).recounted c := by
  cases hkey : tw.keys[k]? with
  | none =>
    have hkey' : (tw.recounted c).keys[k]? = none := hkey
    simp only [Tower.refreshKey, hkey, hkey']
  | some key =>
    have hkey' : (tw.recounted c).keys[k]? = some key := hkey
    have hquiet : (tw.recounted c).quietRefresh curves [k] = (tw.quietRefresh curves [k]).recounted c := rfl
    have hjoins : (tw.recounted c).joinsLine curves k = tw.joinsLine curves k := rfl
    have hleaves : (tw.recounted c).leavesLine curves k = tw.leavesLine curves k := rfl
    rw [Tower.refreshKey_of_key curves hkey, Tower.refreshKey_of_key curves hkey', hquiet, hjoins, hleaves, Tower.dispatch_recounted,
      Tower.drainCheck_recounted]
    split
    · rfl
    · split <;> rfl

end Recounted

/-- The machine with other loop counters of a tower. -/
def State.recounted (s : State) (t : TowerIx) (c : LoopCounters) : State := s.setTower t ((s.tower t).recounted c)

section RecountedState

variable (s : State) (t : TowerIx) (c : LoopCounters)

theorem State.recounted_tower : (s.recounted t c).tower t = (s.tower t).recounted c := s.tower_setTower_same t _

theorem State.recounted_curves : (s.recounted t c).curves = s.curves := rfl

theorem State.recounted_setTower (tw : Tower) : (s.recounted t c).setTower t (tw.recounted c) = (s.setTower t tw).recounted t c := by
  rw [State.recounted, State.recounted, State.setTower_setTower, State.tower_setTower_same, State.setTower_setTower]

theorem State.putAcc_recounted (k : Nat) (old v : Int) : (s.recounted t c).putAcc t k old v = (s.putAcc t k old v).recounted t c := by
  have hlog : ∀ u : State, (u.recounted t c).logFault .curveIncomplete (.tower t) =
      (u.logFault .curveIncomplete (.tower t)).recounted t c := fun _ => rfl
  unfold State.putAcc
  split
  · rfl
  · have hwritten : ((s.tower t).recounted c).updateKey k (fun key => { key with acc := v }) =
        ((s.tower t).updateKey k fun key => { key with acc := v }).recounted c := rfl
    rw [State.recounted_tower, hwritten, State.recounted_setTower]
    generalize s.setTower t ((s.tower t).updateKey k fun key => { key with acc := v }) = u
    have hrefresh : ((u.tower t).recounted c).refresh u.curves [k] false = ((u.tower t).refresh u.curves [k] false).recounted c :=
      Tower.refreshKey_recounted u.curves (u.tower t) c k
    have hholds : ((u.tower t).recounted c).holdsAny u.curves [k] = (u.tower t).holdsAny u.curves [k] := rfl
    unfold State.refreshKey State.refresh
    simp only [State.recounted_tower, State.recounted_curves, hrefresh, hholds, State.recounted_setTower, hlog]
    split <;> rfl

theorem State.measureEntry_recounted (sheet : Sheet) (k : Nat) (value : Int) (n : MeasureCounts) :
    (s.recounted t c).measureEntry t sheet k value n =
      ((s.measureEntry t sheet k value n).1.recounted t c, (s.measureEntry t sheet k value n).2) := by
  have hkeys : ((s.tower t).recounted c).keys = (s.tower t).keys := rfl
  have hconfig : ((s.tower t).recounted c).config = (s.tower t).config := rfl
  unfold State.measureEntry
  simp only [State.recounted_tower, hkeys, hconfig, State.putAcc_recounted]
  split
  · split_ifs <;> rfl
  · rfl

end RecountedState

theorem State.measureEntries_recounted (t : TowerIx) (c : LoopCounters) (sheet : Sheet) (entries : List (Nat × Int))
    (n : MeasureCounts) (s : State) : State.measureEntries t sheet entries n (s.recounted t c) =
      ((State.measureEntries t sheet entries n s).1.recounted t c, (State.measureEntries t sheet entries n s).2) := by
  induction entries generalizing n s with
  | nil => rfl
  | cons e rest ih =>
    simp only [State.measureEntries]
    rw [State.measureEntry_recounted, ih]

/-! ### The end of a reply between two messages (R148) -/

theorem State.putAcc_release (s : State) (p : MasterPort) (t : TowerIx) (k : Nat) (old v : Int) :
    (s.release p).putAcc t k old v = (s.putAcc t k old v).release p := by
  unfold State.putAcc
  split
  · rfl
  · rw [State.release_tower, State.release_setTower]
    exact State.release_refresh ..

theorem State.measureEntries_release (t : TowerIx) (p : MasterPort) (sheet : Sheet) (entries : List (Nat × Int))
    (n : MeasureCounts) (s : State) : State.measureEntries t sheet entries n (s.release p) =
      ((State.measureEntries t sheet entries n s).1.release p, (State.measureEntries t sheet entries n s).2) := by
  have hone : ∀ (k : Nat) (value : Int) (n : MeasureCounts) (s : State), (s.release p).measureEntry t sheet k value n =
      ((s.measureEntry t sheet k value n).1.release p, (s.measureEntry t sheet k value n).2) := fun k value n s => by
    unfold State.measureEntry
    simp only [State.release_tower, State.putAcc_release]
    split
    · split_ifs <;> rfl
    · rfl
  induction entries generalizing n s with
  | nil => rfl
  | cons e rest ih =>
    simp only [State.measureEntries]
    rw [hone, ih]

end Sys2Proof.Machine

/-! SUPPORT. MEASURE (R98 to R102, R104). -/

namespace Sys2Proof.Machine

/-! ### The fields of the message -/

theorem be32_bytes32 (w : BitVec 32) :
    be32 (w.extractLsb' 24 8) (w.extractLsb' 16 8) (w.extractLsb' 8 8) (w.extractLsb' 0 8) = w := by
  refine BitVec.eq_of_getLsbD_eq fun i hi => ?_
  simp only [be32, BitVec.getLsbD_append, BitVec.getLsbD_extractLsb']
  split_ifs <;> rw [decide_eq_true (by omega), Bool.true_and] <;> congr 1 <;> omega

theorem sheetBefore_iff (a b : Sheet) : sheetBefore a b = true ↔ 2 ^ 31 ≤ (a.toNat + 2 ^ 32 - b.toNat) % 2 ^ 32 := by
  have ha := a.isLt
  have hb := b.isLt
  have hsub : (a - b).toNat = (a.toNat + 2 ^ 32 - b.toNat) % 2 ^ 32 := by
    rw [BitVec.toNat_sub]
    congr 1
    omega
  simp only [sheetBefore, sheetNotBefore, hsub, Bool.not_eq_true', decide_eq_false_iff_not, Nat.not_lt]

theorem clamp_eq_max_min {lo hi : Int} (h : lo ≤ hi) (v : Int) : clamp lo hi v = max lo (min hi v) := by
  unfold clamp
  split_ifs <;> omega

/-- The correction of a deviation, limited to the step limit (R96). -/
theorem loopDelta_eq (l : LoopSettings) (dev : Int) : loopDelta l dev = correctionOf l dev := by
  have hround : roundHalfUp (dev * l.gain).natAbs 1000 = (2 * (dev.natAbs * l.gain) + 1000) / 2000 := by
    rw [roundHalfUp, Int.natAbs_mul, Int.natAbs_natCast]
  unfold loopDelta correctionOf
  rw [clamp_eq_max_min (by omega), roundAway, hround]
  rcases Int.lt_or_le 0 dev with hpos | hneg
  · have hproduct : 0 ≤ dev * (l.gain : Int) := Int.mul_nonneg (Int.le_of_lt hpos) (Int.natCast_nonneg _)
    rw [if_pos hproduct, if_pos hpos]
    omega
  · rw [if_neg (Int.not_lt.mpr hneg)]
    split_ifs with hproduct
    · have hzero : dev * (l.gain : Int) = 0 :=
        Int.le_antisymm (Int.mul_nonpos_of_nonpos_of_nonneg hneg (Int.natCast_nonneg _)) hproduct
      have hnothing : dev.natAbs * l.gain = 0 := by
        have := congrArg Int.natAbs hzero
        rwa [Int.natAbs_mul, Int.natAbs_natCast] at this
      rw [hnothing]
      omega
    · omega

/-- The result byte of a MEASURE: a deviation of the message was clamped or none was (R101). -/
theorem anyDeviationClamped_eq (entries : List (Byte × Int)) :
    anyDeviationClamped (entries.map fun e => (e.1.toNat, e.2)) = decide (∃ e ∈ entries, e.2 < -1000 ∨ 1000 < e.2) := by
  have hone : ∀ v : Int, clamp (-1000) 1000 v ≠ v ↔ v < -1000 ∨ 1000 < v := fun v => by
    rw [ne_eq, clamp_eq_self (by decide)]
    omega
  rw [Bool.eq_iff_iff]
  simp [anyDeviationClamped, hone]

/-! ### The gate (R99) -/

section Gate

variable (t : TowerIx) (sheet : Sheet)

theorem State.measure_of_running {s : State} (h : (s.tower t).state = .printing ∧ (s.tower t).config.loop.enable = true)
    (entries : List (Nat × Int)) : s.measure t sheet entries = State.measureEntries t sheet entries .zero s := if_pos h

theorem State.measure_of_not_running {s : State} (h : ¬((s.tower t).state = .printing ∧ (s.tower t).config.loop.enable = true))
    (entries : List (Nat × Int)) : s.measure t sheet entries = (s, { LoopCounters.zero with stateSkipped := entries.length }) :=
  if_neg h

theorem State.measure_measuredFrom (s : State) (entries : List (Nat × Int)) : State.MeasuredFrom t s (s.measure t sheet entries).1 := by
  unfold State.measure
  split
  · exact State.measureEntries_measuredFrom t sheet entries _ s
  · exact .refl t s

theorem State.measure_total (s : State) (entries : List (Nat × Int)) : (s.measure t sheet entries).2.total = entries.length := by
  unfold State.measure
  split
  · exact State.measureEntries_total t sheet entries s
  · simp [LoopCounters.total, LoopCounters.zero]

/-- Entries are taken in order, and the gate does not change between them (R99, R100). -/
theorem State.measure_append (s : State) (entries rest : List (Nat × Int)) :
    let out := s.measure t sheet entries
    s.measure t sheet (entries ++ rest) = ((out.1.measure t sheet rest).1, out.2.sum (out.1.measure t sheet rest).2) := by
  intro out
  by_cases h : (s.tower t).state = .printing ∧ (s.tower t).config.loop.enable = true
  · have hout : out = State.measureEntries t sheet entries .zero s := State.measure_of_running t sheet h entries
    obtain ⟨-, -, hconfig, -, hstate⟩ : State.MeasuredFrom t s out.1 := s.measure_measuredFrom t sheet entries
    have hstill : (out.1.tower t).state = .printing ∧ (out.1.tower t).config.loop.enable = true := ⟨hstate h.1, hconfig ▸ h.2⟩
    rw [State.measure_of_running t sheet h, State.measure_of_running t sheet hstill, State.measureEntries_append, ← hout,
      State.measureEntries_counts]
  · have hout : out = (s, { LoopCounters.zero with stateSkipped := entries.length }) := State.measure_of_not_running t sheet h entries
    rw [hout]
    simp only [State.measure_of_not_running t sheet h]
    simp [LoopCounters.sum, LoopCounters.zero]

theorem State.measure_recounted (c : LoopCounters) (s : State) (entries : List (Nat × Int)) :
    (s.recounted t c).measure t sheet entries = ((s.measure t sheet entries).1.recounted t c, (s.measure t sheet entries).2) := by
  have hstate : ((s.recounted t c).tower t).state = (s.tower t).state := by
    rw [State.recounted_tower]
    rfl
  have hconfig : ((s.recounted t c).tower t).config = (s.tower t).config := by
    rw [State.recounted_tower]
    rfl
  unfold State.measure
  rw [hstate, hconfig]
  split
  · exact State.measureEntries_recounted t c sheet entries _ s
  · rfl

theorem State.measure_release (p : MasterPort) (s : State) (entries : List (Nat × Int)) :
    (s.release p).measure t sheet entries = ((s.measure t sheet entries).1.release p, (s.measure t sheet entries).2) := by
  unfold State.measure
  rw [State.release_tower]
  split
  · exact State.measureEntries_release t p sheet entries _ s
  · rfl

end Gate

theorem State.addCounts_eq (s : State) (t : TowerIx) (n : MeasureCounts) :
    s.addCounts t n = s.recounted t ((s.tower t).counters.plus n) := rfl

/-- Counters that are set anew were no part of what the machine holds after it. -/
theorem State.addCounts_recounted_release (s : State) (t : TowerIx) (p : MasterPort) (c : LoopCounters) (n : MeasureCounts) :
    ((s.recounted t c).release p).addCounts t n = (s.recounted t (c.plus n)).release p := by
  rw [State.addCounts_eq, State.release_tower, State.recounted_tower, State.recounted, State.release_tower, State.recounted_tower,
    State.release_setTower, State.recounted, State.setTower_setTower]
  rfl

/-! ### The request -/

/-- The arguments of a MEASURE. -/
def measureArgs (b : Byte) (sheet : Sheet) (entries : List (Byte × Int)) : List Byte :=
  b :: (bytes32 sheet ++ entries.flatMap fun e => e.1 :: bytesSigned16 e.2)

/-- The reply of an accepted MEASURE (R102). -/
def measureReply (clamped : Bool) (n : MeasureCounts) : List Byte :=
  [0xA0#8, if clamped then 0x01#8 else 0x00#8, byteOf n.applied, byteOf n.settleSkipped, byteOf n.deadbandSkipped,
    byteOf n.stateSkipped]

section Request

variable {p : MasterPort} {b : Byte} {sheet : Sheet} {entries : List (Byte × Int)} {s : State}

theorem lengthFits_measure (b : Byte) (sheet : Sheet) (hlo : 1 ≤ entries.length) (hhi : entries.length ≤ 48) :
    lengthFits .measure (measureArgs b sheet entries).length = true := by
  refine (lengthFits_iff .measure _).mpr ⟨entries.length, hlo, hhi, ?_⟩
  simp [measureArgs, List.length_flatMap, bytes32]
  omega

theorem takeMeasure_eq (p : MasterPort) (b : Byte) (sheet : Sheet) (s : State)
    (hvalues : ∀ e ∈ entries, -32768 ≤ e.2 ∧ e.2 ≤ 32767) :
    let named := entries.map fun e => (e.1.toNat, e.2)
    takeMeasure p (measureArgs b sheet entries) s = match readTower b with
      | some t => if (named.all fun e => decide (e.1 < (s.tower t).z)) && !sheetAfter sheet s.sheets then
          .ok ((s.measure t sheet named).1.addCounts t (s.measure t sheet named).2, clampResult (anyDeviationClamped named),
            [byteOf (s.measure t sheet named).2.applied, byteOf (s.measure t sheet named).2.settleSkipped,
              byteOf (s.measure t sheet named).2.deadbandSkipped, byteOf (s.measure t sheet named).2.stateSkipped])
          else .error .range
      | none => .error .range := by
  intro named
  have hcons : measureArgs b sheet entries = b :: sheet.extractLsb' 24 8 :: sheet.extractLsb' 16 8 :: sheet.extractLsb' 8 8 ::
      sheet.extractLsb' 0 8 :: entries.flatMap fun e => e.1 :: bytesSigned16 e.2 := rfl
  rw [hcons]
  simp only [takeMeasure, be32_bytes32, readKeyValues_entries hvalues]
  rfl

variable (hfree : s.busy p = false) (hlo : 1 ≤ entries.length) (hhi : entries.length ≤ 48)
  (hvalues : ∀ e ∈ entries, -32768 ≤ e.2 ∧ e.2 ≤ 32767)
include hfree hlo hhi hvalues

theorem exec_measure_of_no_tower (hb : 12 ≤ b.toNat) :
    exec (.measure p (measureArgs b sheet entries)) s = .next (s.sendReply p [0xA0#8, 0x07#8]) := by
  have hnone := readTower_none hb
  have hearly : s.earlyRefusal p .measure (measureArgs b sheet entries) = none :=
    State.earlyRefusal_of_no_member (portRank_le_two p) (lengthFits_measure b sheet hlo hhi)
      (by simp [State.accessMember, towerMember, measureArgs, hnone])
  exact exec_of_error (fn := .measure) (r := .range) hfree hearly ((takeMeasure_eq p b sheet s hvalues).trans (by rw [hnone]))

variable {t : TowerIx} (hb : b.toNat = t.val) (hpermits : s.Permits p t.val)
include hb hpermits

omit hfree hvalues in
theorem State.earlyRefusal_measure : s.earlyRefusal p .measure (measureArgs b sheet entries) = none :=
  State.earlyRefusal_of_permits (portRank_le_two p) (lengthFits_measure b sheet hlo hhi) (towerMember_of_tower hb
    (bytes32 sheet ++ entries.flatMap fun e => e.1 :: bytesSigned16 e.2)) hpermits

theorem exec_measure_of_range (hbad : (∃ e ∈ entries, (s.tower t).z ≤ e.1.toNat) ∨
    2 ^ 31 ≤ (s.sheets.toNat + 2 ^ 32 - sheet.toNat) % 2 ^ 32) :
    exec (.measure p (measureArgs b sheet entries)) s = .next (s.sendReply p [0xA0#8, 0x07#8]) := by
  refine exec_of_error (fn := .measure) (r := .range) hfree
    (State.earlyRefusal_measure hlo hhi hb hpermits) ((takeMeasure_eq p b sheet s hvalues).trans ?_)
  rw [readTower_of_toNat hb]
  refine if_neg fun hall => ?_
  rw [Bool.and_eq_true, Bool.not_eq_true'] at hall
  obtain ⟨hkeys, hnow⟩ := hall
  rcases hbad with ⟨e, he, hz⟩ | hlate
  · have := List.all_eq_true.mp hkeys _ (List.mem_map_of_mem (f := fun e : Byte × Int => (e.1.toNat, e.2)) he)
    exact absurd (of_decide_eq_true this) (Nat.not_lt.mpr hz)
  · rw [sheetAfter, (sheetBefore_iff ..).mpr hlate] at hnow
    cases hnow

/-- A MEASURE within its ranges: its entries are taken, its counts added and sent back. -/
theorem exec_measure_ok (hkeys : ∀ e ∈ entries, e.1.toNat < (s.tower t).z)
    (hnow : (s.sheets.toNat + 2 ^ 32 - sheet.toNat) % 2 ^ 32 < 2 ^ 31) :
    let out := s.measure t sheet (entries.map fun e => (e.1.toNat, e.2))
    exec (.measure p (measureArgs b sheet entries)) s = .next ((out.1.addCounts t out.2).sendReply p
      (measureReply (decide (∃ e ∈ entries, e.2 < -1000 ∨ 1000 < e.2)) out.2)) := by
  intro out
  have hin : (entries.map fun e => (e.1.toNat, e.2)).all (fun e => decide (e.1 < (s.tower t).z)) = true :=
    List.all_eq_true.mpr fun e he => by
      obtain ⟨a, ha, rfl⟩ := List.mem_map.mp he
      exact decide_eq_true (hkeys a ha)
  have hnot : sheetAfter sheet s.sheets = false := Bool.eq_false_iff.mpr fun h =>
    absurd ((sheetBefore_iff ..).mp h) (Nat.not_le.mpr hnow)
  have htake := takeMeasure_eq p b sheet s hvalues
  rw [readTower_of_toNat hb] at htake
  simp only [hin, hnot, Bool.not_false, Bool.and_self, if_true, anyDeviationClamped_eq] at htake
  refine (exec_of_ok (fn := .measure) hfree (State.earlyRefusal_measure hlo hhi hb hpermits) htake).trans ?_
  rw [code_clampResult]
  rfl

end Request

end Sys2Proof.Machine

/-! SUPPORT. MEASURE gated and counted (R99, R100, R102, R104). -/

namespace Sys2Proof.Machine

/-- Two messages of MEASURE have together the effect of one (R100, R104, R148). -/
theorem State.measure_twice (s : State) (t : TowerIx) (p : MasterPort) (sheet : Sheet) (entries rest : List (Nat × Int))
    (first second whole : List Byte) :
    let out := s.measure t sheet entries
    let between := ((out.1.addCounts t out.2).sendReply p first).release p
    let out' := between.measure t sheet rest
    let all := s.measure t sheet (entries ++ rest)
    all.2 = out.2.sum out'.2 ∧
      ((all.1.addCounts t all.2).sendReply p whole).release p = ((out'.1.addCounts t out'.2).sendReply p second).release p := by
  intro out between out' all
  set after := out.1.measure t sheet rest with hafter
  set c := (out.1.tower t).counters.plus out.2 with hc
  have hbetween : between = (out.1.recounted t c).release p := State.release_sendReply ..
  have hout' : out' = ((after.1.recounted t c).release p, after.2) := by
    show between.measure t sheet rest = _
    rw [hbetween, State.measure_release, State.measure_recounted]
  have hall : all = (after.1, out.2.sum after.2) := State.measure_append t sheet s entries rest
  obtain ⟨-, -, -, hcounters, -⟩ : State.MeasuredFrom t out.1 after.1 := out.1.measure_measuredFrom t sheet rest
  refine ⟨by rw [hall, hout'], ?_⟩
  rw [State.release_sendReply, State.release_sendReply, hall, hout', State.addCounts_recounted_release, State.release_release,
    State.addCounts_eq, hcounters, ← LoopCounters.plus_plus]

/-- What an applied measurement leaves of its key (R97). -/
theorem State.putAcc_key (s : State) (t : TowerIx) {k : Nat} {key : KeyRec} (hkey : (s.tower t).keys[k]? = some key) (v : Int) :
    ∃ key' : KeyRec, ((s.putAcc t k key.acc v).tower t).keys[k]? = some key' ∧ key'.acc = v ∧ key'.trim = key.trim ∧
      key'.settleUntil = key.settleUntil := by
  unfold State.putAcc
  split
  · next h => exact ⟨key, hkey, h.symm, rfl, rfl⟩
  · set stored : Tower := (s.tower t).updateKey k fun key => { key with acc := v } with hstored
    have hat : stored.keys[k]? = some { key with acc := v } := by
      rw [hstored, Tower.updateKey_eq hkey]
      exact getElem?_set_of_getElem? hkey _
    have hrecord := Tower.refresh_key s.curves (List.nodup_singleton k) false stored k
    rw [hat, Option.map_some, if_pos (List.mem_singleton.mpr rfl)] at hrecord
    obtain ⟨key', hkey', hundriven⟩ := Option.map_eq_some_iff.mp hrecord
    have htower : ((s.setTower t stored).refreshKey t k).tower t = stored.refresh s.curves [k] false := by
      rw [State.refreshKey, State.refresh_tower_same, State.tower_setTower_same, State.setTower_curves]
    obtain ⟨htrim, hacc, hsettle⟩ : key'.trim = key.trim ∧ key'.acc = v ∧ key'.settleUntil = key.settleUntil := by
      simp only [KeyRec.undriven, KeyRec.mk.injEq, Tower.presetKey_trim, Tower.presetKey_acc, Tower.presetKey_settleUntil] at hundriven
      obtain ⟨-, -, -, htrim, hacc, hsettle⟩ := hundriven
      exact ⟨htrim, hacc, hsettle⟩
    exact ⟨key', by rw [htower, hkey'], hacc, htrim, hsettle⟩

section OneEntry

variable {s : State} {t : TowerIx} {k : Nat} {key : KeyRec} (hkey : (s.tower t).keys[k]? = some key)
  (hrunning : (s.tower t).state = .printing ∧ (s.tower t).config.loop.enable = true) (sheet : Sheet) (x : Int)
include hkey hrunning

/-- One entry of a PRINTING tower, by the checks of R100. -/
theorem State.measure_one : s.measure t sheet [(k, x)] =
    if key.drive.state ≠ .idle then (s, { LoopCounters.zero with stateSkipped := 1 })
    else if sheetBefore sheet key.settleUntil then (s, { LoopCounters.zero with settleSkipped := 1 })
    else if (clamp (-1000) 1000 x).natAbs ≤ (s.tower t).config.loop.deadband then
      (s, { LoopCounters.zero with deadbandSkipped := 1 })
    else (s.putAcc t k key.acc (clamp (-200) 200 (key.acc + loopDelta (s.tower t).config.loop (clamp (-1000) 1000 x))),
      { LoopCounters.zero with applied := 1 }) := by
  rw [State.measure_of_running t sheet hrunning]
  simp only [State.measureEntries, State.measureEntry, hkey]
  rfl

end OneEntry

/-- Settles O38. -/
theorem measureIsGatedAndCounted : Obligations.MeasureIsGatedAndCounted := by
  refine ⟨fun p t b sheet first rest s hfree hb hpermits hlo hlo' hhi hentries hnow => ?_,
    fun p b sheet entries s hfree hlo hhi hvalues => ?_⟩
  · intro measure answer
    set named : List (Byte × Int) → List (Nat × Int) := fun entries => entries.map fun e => (e.1.toNat, e.2) with hnamed
    have hvalues : ∀ e ∈ first ++ rest, -32768 ≤ e.2 ∧ e.2 ≤ 32767 := fun e he =>
      ⟨(hentries e he).1, (hentries e he).2.1⟩
    have hkeys : ∀ e ∈ first ++ rest, e.1.toNat < (s.tower t).z := fun e he => (hentries e he).2.2
    set clamped : List (Byte × Int) → Bool := fun entries => decide (∃ e ∈ entries, e.2 < -1000 ∨ 1000 < e.2) with hclamped
    have hfirst := exec_measure_ok hfree hlo (by omega) (fun e he => hvalues e (List.mem_append_left rest he)) hb hpermits
      (fun e he => hkeys e (List.mem_append_left rest he)) hnow
    have hwhole := exec_measure_ok (entries := first ++ rest) hfree (by rw [List.length_append]; omega)
      (by rw [List.length_append]; omega) hvalues hb hpermits hkeys hnow
    obtain ⟨hsum, hsame⟩ := s.measure_twice t p sheet (named first) (named rest)
      (measureReply (clamped first) (s.measure t sheet (named first)).2)
      (measureReply (clamped rest) ((((s.measure t sheet (named first)).1.addCounts t (s.measure t sheet (named first)).2).sendReply p
        (measureReply (clamped first) (s.measure t sheet (named first)).2)).release p |>.measure t sheet (named rest)).2)
      (measureReply (clamped (first ++ rest)) (s.measure t sheet (named (first ++ rest))).2)
    have happend : named (first ++ rest) = named first ++ named rest := List.map_append
    obtain ⟨hsameBut, -, hconfig, -, -⟩ := s.measure_measuredFrom t sheet (named first)
    set out := s.measure t sheet (named first) with hout
    set u := (out.1.addCounts t out.2).sendReply p (measureReply (clamped first) out.2) with hu
    obtain ⟨-, hsheets, -, haccess, -, -⟩ : SameBut t s u :=
      (hsameBut.trans (State.setTower_sameBut ..)).sendReply p _
    have hz : ((u.release p).tower t).z = (s.tower t).z := by
      rw [State.release_tower, hu, State.sendReply_tower, State.addCounts_eq, State.recounted_tower]
      exact congrArg (fun c : TowerConfig => c.geometry.z) hconfig
    have hpermits' : (u.release p).Permits p t.val := by
      simpa only [State.Permits, State.release_access, haccess] using hpermits
    have hsecond := exec_measure_ok (s := u.release p) (State.release_busy u p) hlo' (by omega)
      (fun e he => hvalues e (List.mem_append_right first he)) hb hpermits'
      (fun e he => by rw [hz]; exact hkeys e (List.mem_append_right first he)) (by rw [State.release_sheets, hsheets]; exact hnow)
    have hreply : ∀ (s' : State) (entries : List (Byte × Int)) (n : MeasureCounts),
        ((s'.sendReply p (measureReply (clamped entries) n)).port p).reply =
          some (answer (if clamped entries then 0x01#8 else 0x00#8) n) := fun s' entries n => by
      rw [State.sendReply_port_same]
      rfl
    refine ⟨u, _, _, _, _, out.2, ((u.release p).measure t sheet (named rest)).2, hfirst, hreply .., ?_, hsecond, hreply .., ?_,
      hwhole, ?_, ?_⟩
    · exact (s.measure_total t sheet (named first)).trans (List.length_map ..)
    · exact ((u.release p).measure_total t sheet (named rest)).trans (List.length_map ..)
    · refine (hreply _ (first ++ rest) _).trans ?_
      have hcounts : (s.measure t sheet (named (first ++ rest))).2 = out.2.sum ((u.release p).measure t sheet (named rest)).2 := by
        rw [happend]
        exact hsum
      have hor : clamped (first ++ rest) = (clamped first || clamped rest) := by
        rw [Bool.eq_iff_iff]
        simp only [hclamped, Bool.or_eq_true, decide_eq_true_eq, List.mem_append, or_and_right, exists_or]
      have hresult : (if clamped (first ++ rest) then 0x01#8 else 0x00#8 : Byte) =
          if (if clamped first then 0x01#8 else 0x00#8 : Byte) = 0x01#8 then 0x01#8 else if clamped rest then 0x01#8 else 0x00#8 := by
        rw [hor]
        cases clamped first <;> cases clamped rest <;> rfl
      exact congrArg some (congrArg₂ answer hresult hcounts)
    · have hsame' := hsame
      rw [← happend] at hsame'
      exact hsame'
  · intro args refused r
    have hr : ∀ n, [0xA0#8, r, BitVec.ofNat 8 n.applied, BitVec.ofNat 8 n.settleSkipped, BitVec.ofNat 8 n.deadbandSkipped,
        BitVec.ofNat 8 n.stateSkipped] = measureReply (decide (∃ e ∈ entries, e.2 < -1000 ∨ 1000 < e.2)) n := fun n => by
      simp only [measureReply, decide_eq_true_eq]
      rfl
    refine ⟨exec_measure_of_no_tower hfree hlo hhi hvalues, fun t hb hpermits hsound hlength => ?_⟩
    intro tw counted running
    have hcounted : ∀ n, counted n =
        (s.addCounts t n).sendReply p (measureReply (decide (∃ e ∈ entries, e.2 < -1000 ∨ 1000 < e.2)) n) := fun n =>
      congrArg (State.sendReply (s.addCounts t n) p) (hr n)
    refine ⟨exec_measure_of_range hfree hlo hhi hvalues hb hpermits, fun hkeys hnow => ?_⟩
    have hexec := exec_measure_ok hfree hlo hhi hvalues hb hpermits hkeys hnow
    refine ⟨fun hnot => ?_, ?_, fun kb x key hrunning hone hkey => ?_⟩
    · rw [State.measure_of_not_running t sheet hnot, List.length_map] at hexec
      rw [hcounted]
      exact hexec
    · obtain ⟨hsameBut, hmasters, -, hcounters, -⟩ := s.measure_measuredFrom t sheet (entries.map fun e => (e.1.toNat, e.2))
      refine ⟨_, (s.measure t sheet (entries.map fun e => (e.1.toNat, e.2))).2, hexec, ?_, ?_, ?_, ?_⟩
      · exact (s.measure_total t sheet _).trans (List.length_map ..)
      · rw [hcounted, State.sendReply_tower, State.sendReply_tower, State.addCounts_eq, State.addCounts_eq, State.recounted_tower,
          State.recounted_tower, hcounters]
        rfl
      · rw [hcounted, State.sendReply_port_same, State.sendReply_port_same]
      · exact (hsameBut.trans (State.setTower_sameBut ..)).sendReply p _
    · intro dev early acc one
      subst hone
      have hmeasure := State.measure_one hkey hrunning sheet x
      have hdev : clamp (-1000) 1000 x = dev := clamp_eq_max_min (by decide) x
      have hacc : clamp (-200) 200 (key.acc + loopDelta tw.config.loop dev) = acc := by
        rw [loopDelta_eq]
        exact clamp_eq_max_min (by decide) _
      rw [hdev, hacc] at hmeasure
      have hearly : sheetBefore sheet key.settleUntil = true ↔ early := sheetBefore_iff ..
      have hentry : [(kb, x)].map (fun e : Byte × Int => (e.1.toNat, e.2)) = [(kb.toNat, x)] := rfl
      simp only [hentry] at hexec
      refine ⟨fun hbusy => ?_, fun hidle hwindow => ?_, fun hidle hopen hsmall => ?_, fun hidle hopen hlarge => ⟨fun hsame => ?_, ?_⟩⟩
      · rw [if_pos hbusy] at hmeasure
        rw [hmeasure] at hexec
        rw [hcounted]
        exact hexec
      · rw [if_neg (not_not.mpr hidle), if_pos (hearly.mpr hwindow)] at hmeasure
        rw [hmeasure] at hexec
        rw [hcounted]
        exact hexec
      · rw [if_neg (not_not.mpr hidle), if_neg (mt hearly.mp hopen), if_pos hsmall] at hmeasure
        rw [hmeasure] at hexec
        rw [hcounted]
        exact hexec
      all_goals rw [if_neg (not_not.mpr hidle), if_neg (mt hearly.mp hopen), if_neg (Nat.not_le.mpr hlarge)] at hmeasure
      · rw [hmeasure, State.putAcc, if_pos hsame] at hexec
        rw [hcounted]
        exact hexec
      · rw [hmeasure] at hexec
        obtain ⟨key', hkey', hacc', htrim', hsettle'⟩ := s.putAcc_key t hkey acc
        refine ⟨_, key', hexec, ?_, hacc', htrim', hsettle', ?_⟩
        · rw [State.sendReply_tower, State.addCounts_eq, State.recounted_tower]
          exact hkey'
        · rw [hcounted, State.sendReply_port_same, State.sendReply_port_same]
          rfl

end Sys2Proof.Machine

/-! SUPPORT. An applied measurement moves its key (R97, R126, R127). -/

namespace Sys2Proof.Machine

/-! ### The dispatch check of one key -/

theorem Tower.dispatch_of_no_head {tw : Tower} (h : tw.dispatchHead = none) : tw.dispatch = tw := by
  unfold Tower.dispatch
  cases tw.queue.length with
  | zero => rfl
  | succ n => simp only [Tower.dispatchTurns, h]

/-- With every motor slot taken nothing is sent (R127). -/
theorem Tower.dispatch_of_full {tw : Tower} (h : tw.config.drive.concurrency ≤ tw.moving) : tw.dispatch = tw := by
  refine Tower.dispatch_of_no_head ?_
  cases hhead : tw.dispatchHead with
  | none => rfl
  | some tw' =>
    obtain ⟨-, -, -, -, -, -, -, hslot, -⟩ := Tower.dispatchHead_eq_some hhead
    exact absurd hslot (Nat.not_lt.mpr h)

/-- A key alone in the queue is sent at once where a motor slot is free (R127). -/
theorem Tower.dispatch_of_alone {tw : Tower} {k q : Nat} {key : KeyRec} {g : Target} (hqueue : tw.queue = [k])
    (hrunning : tw.running = true) (hslot : tw.moving < tw.config.drive.concurrency) (hkey : tw.keys[k]? = some key)
    (hdrive : key.drive = .queued q) (htarget : key.target = some g) : tw.dispatch = { tw with
      keys := tw.keys.set k { key with drive := .moving q g.steps tw.config.drive.moveTimeout }
      queue := []
      moving := tw.moving + 1
      port := tw.port.send (.move k g.steps) } := by
  have hhead := Tower.dispatchHead_of_head hqueue hrunning hslot hkey hdrive htarget
  have hdone : tw.dispatch = (({ tw with queue := [], moving := tw.moving + 1 }.setDrive k
      (.moving q g.steps tw.config.drive.moveTimeout)).send (.move k g.steps) : Tower) := by
    rw [Tower.dispatch, hqueue]
    simp only [List.length_singleton, Tower.dispatchTurns, hhead]
  rw [hdone, setDrive_eq (tw := { tw with queue := [], moving := tw.moving + 1 }) hkey]
  rfl

/-! ### A refresh of one key at its target -/

section OneKey

variable {curves : Vector (List Point) 16} {tw : Tower} {k q : Nat} {key : KeyRec} {g : Target}
  (hkey : tw.keys[k]? = some key) (hdrive : key.drive = .idle q) (hat : key.steps = some q)
  (hnew : (tw.presetKey curves k key).target = some g)
include hkey hdrive hat hnew

omit hdrive in
/-- Its target steps stay: the record alone is written. -/
theorem Tower.refreshKey_of_stays (hsteps : g.steps = q) :
    tw.refreshKey curves k = { tw with keys := tw.keys.set k (tw.presetKey curves k key) } := by
  have hstill : (tw.presetKey curves k key).steps = key.steps := by
    rw [KeyRec.steps, hnew, hat, Option.map_some, hsteps]
  have h := Tower.refreshKeys_of_still curves (List.nodup_singleton k) (tw := tw) fun j hj key' hkey' => by
    obtain rfl := List.mem_singleton.mp hj
    obtain rfl := Option.some.inj (hkey.symm.trans hkey')
    exact hstill
  rw [mapIdx_single hkey] at h
  exact h

/-- Its target steps change: the key is queued and the dispatch check made. -/
theorem Tower.refreshKey_of_moves (hstate : tw.state ≠ .dark) (hsteps : g.steps ≠ q) : tw.refreshKey curves k =
    ({ tw with
      keys := tw.keys.set k { tw.presetKey curves k key with drive := .queued q }
      queue := tw.queue ++ [k] } : Tower).dispatch := by
  have hnewSteps : (tw.presetKey curves k key).steps = some g.steps := by
    rw [KeyRec.steps, hnew]
    rfl
  have hjoins : tw.joinsLine curves k = true := by
    rw [Tower.joinsLine_of_key curves hkey, Bool.and_eq_true]
    refine ⟨by simpa using hstate, (KeyRec.joins_iff ..).mpr ⟨q, g.steps, hdrive, hnewSteps, hsteps, ?_⟩⟩
    rw [hnewSteps, hat]
    exact fun e => hsteps (Option.some.inj e)
  have hwritten : (tw.updateKey k fun _ => tw.presetKey curves k key).keys[k]? = some (tw.presetKey curves k key) := by
    rw [Tower.updateKey_eq hkey]
    exact getElem?_set_of_getElem? hkey _
  rw [Tower.refreshKey_of_key curves hkey, if_pos hjoins, Tower.quietRefresh_key curves hkey, if_pos hjoins,
    Tower.enqueue_eq hwritten (by rw [Tower.presetKey_drive, hdrive]), Tower.updateKey_eq hkey]
  simp only [List.set_set]

end OneKey

/-- Settles O39. -/
theorem measureMovesKey : Obligations.MeasureMovesKey := by
  intro p t b kb sheet x q key s hfree hb hpermits hlo hhi k tw m points e acc g key' left hk hkey hdrive hsteps hprinting henable hcomplete
    husable hsound hnow hopen hlarge hchanged
  have hvalues : ∀ a ∈ [(kb, x)], -32768 ≤ a.2 ∧ a.2 ≤ 32767 := fun a ha => by
    obtain rfl := List.mem_singleton.mp ha
    exact ⟨by omega, by omega⟩
  have hexec := exec_measure_ok (entries := [(kb, x)]) hfree (Nat.le_refl 1) (show 1 ≤ 48 by decide) hvalues hb hpermits
    (fun a ha => by
      obtain rfl := List.mem_singleton.mp ha
      exact hk) hnow
  have hunclamped : ¬∃ a ∈ [(kb, x)], a.2 < -1000 ∨ 1000 < a.2 := by
    rintro ⟨a, ha, hout⟩
    obtain rfl := List.mem_singleton.mp ha
    dsimp only at hout
    omega
  have hdev : clamp (-1000) 1000 x = x := (clamp_eq_self (by decide)).mpr ⟨hlo, hhi⟩
  have hacc : clamp (-200) 200 (key.acc + loopDelta tw.config.loop x) = acc := by
    rw [loopDelta_eq]
    exact clamp_eq_max_min (by decide) _
  have hidle : key.drive.state = .idle := by
    rw [hdrive]
    rfl
  have hmeasure := State.measure_one hkey ⟨hprinting, henable⟩ sheet x
  rw [if_neg (not_not.mpr hidle), if_neg (mt (sheetBefore_iff ..).mp (Nat.not_le.mpr hopen)), hdev, if_neg (Nat.not_le.mpr hlarge),
    hacc] at hmeasure
  set measured : KeyRec := { key with acc := acc } with hmeasured
  set stored : Tower := { tw with keys := tw.keys.set k measured } with hstored
  have hat : stored.keys[k]? = some measured := getElem?_set_of_getElem? hkey _
  have hpreset : stored.presetKey s.curves k measured = key' := by
    rw [Tower.presetKey_of_complete (tw := stored) hcomplete, Tower.presetTarget_of_usable (tw := stored) husable]
    rfl
  have hput : s.putAcc t k key.acc acc = s.setTower t (stored.refreshKey s.curves k) := by
    have hquiet : stored.holdsAny s.curves [k] = false := by
      have hpoints : usable (s.curves.get (stored.curveOf k)) = true := (usable_iff _).mpr husable
      simp [Tower.holdsAny, hpoints]
    have hwritten : (s.tower t).updateKey k (fun key => { key with acc := acc }) = stored := Tower.updateKey_eq hkey _
    have hrefresh : stored.refresh s.curves [k] false = stored.refreshKey s.curves k := rfl
    rw [State.putAcc, if_neg hchanged, hwritten, State.refreshKey, State.refresh]
    simp only [State.tower_setTower_same, State.setTower_curves, State.setTower_setTower, hquiet, hrefresh, Bool.false_eq_true, if_false]
  have hcounts : tw.counters.plus { LoopCounters.zero with applied := 1 } =
      { tw.counters with applied := min 65535 (tw.counters.applied + 1) } := by
    obtain ⟨-, hsettle, hdeadband, hstate⟩ := hsound
    simp [LoopCounters.plus, LoopCounters.zero, Nat.min_eq_right hsettle, Nat.min_eq_right hdeadband, Nat.min_eq_right hstate]
  have hleft : ∀ tw' : Tower, stored.refreshKey s.curves k = tw' → tw'.counters = tw.counters → left tw' := fun tw' htw' hsame => by
    have hdone : (s.putAcc t k key.acc acc).addCounts t { LoopCounters.zero with applied := 1 } =
        s.setTower t { tw' with counters := { tw.counters with applied := min 65535 (tw.counters.applied + 1) } } := by
      rw [hput, htw', State.addCounts_eq, State.recounted, State.tower_setTower_same, State.setTower_setTower, hsame, hcounts]
      rfl
    have hentry : [(kb, x)].map (fun e : Byte × Int => (e.1.toNat, e.2)) = [(k, x)] := rfl
    rw [hentry, hmeasure, decide_eq_false hunclamped] at hexec
    exact hexec.trans (congrArg (fun u : State => Host.Outcome.next (u.sendReply p [0xA0#8, 0x00#8, 0x01#8, 0x00#8, 0x00#8, 0x00#8])) hdone)
  have htarget : (stored.presetKey s.curves k measured).target = some g := by rw [hpreset]
  have hrecord : ∀ d : Drive, stored.keys.set k { key' with drive := d } = tw.keys.set k { key' with drive := d } := fun d =>
    List.set_set ..
  have hnotDark : stored.state ≠ .dark := fun h => by
    rw [show stored.state = .printing from hprinting] at h
    cases h
  refine ⟨fun hstay => ?_, fun hmove hempty hslot => ?_, fun hmove hfull => ?_⟩
  · refine hleft _ ?_ rfl
    rw [Tower.refreshKey_of_stays hat hsteps htarget hstay, hpreset]
    simp only [hstored, List.set_set]
  · refine hleft _ ?_ rfl
    have hqueued : (stored.keys.set k { key' with drive := .queued q })[k]? = some { key' with drive := .queued q } :=
      getElem?_set_of_getElem? hat _
    have hmoved := Tower.refreshKey_of_moves hat hdrive hsteps htarget hnotDark hmove
    have halone : stored.queue ++ [k] = [k] := by rw [show stored.queue = [] from hempty, List.nil_append]
    rw [hpreset] at hmoved
    set waiting : Tower := { stored with
      keys := stored.keys.set k { key' with drive := .queued q }
      queue := stored.queue ++ [k] } with hwaiting
    have hrunning : waiting.running = true := by simp [Tower.running, hwaiting, stored, hprinting]
    refine hmoved.trans ((Tower.dispatch_of_alone (tw := waiting) halone hrunning hslot hqueued rfl rfl).trans ?_)
    rw [hwaiting]
    simp only [hrecord, List.set_set]
    rw [hempty]
  · refine hleft _ ?_ rfl
    have hmoved := Tower.refreshKey_of_moves hat hdrive hsteps htarget hnotDark hmove
    rw [hpreset, hrecord] at hmoved
    exact hmoved.trans (Tower.dispatch_of_full hfull)

end Sys2Proof.Machine

/-! SUPPORT. The configuration record read field by field, and the checks of CONFIG SET (R11 to R13). -/

namespace Sys2Proof.Machine

/-! ### The fields of a record (R176) -/

theorem readFlag_eq_some_iff {b : Byte} {f : Bool} : readFlag b = some f ↔ b.toNat = if f then 1 else 0 := by
  constructor
  · intro h
    rcases Nat.lt_or_ge b.toNat 2 with hlt | hge
    · rw [readFlag_of_le (Nat.le_of_lt_succ hlt)] at h
      obtain rfl := Option.some.inj h
      simp only [decide_eq_true_eq]
      split <;> omega
    · rw [readFlag_none hge] at h
      cases h
  · intro h
    rw [readFlag_of_le (by rw [h]; split <;> omega), h]
    cases f <;> rfl

theorem readCurve_eq_some_iff {b : Byte} {c : CurveIx} : readCurve b = some c ↔ b.toNat = c.val := by
  refine ⟨fun h => ?_, readCurve_of_toNat⟩
  rcases Nat.lt_or_ge b.toNat 16 with hlt | hge
  · have hread := readCurve_of_toNat (b := b) (c := ⟨b.toNat, hlt⟩) rfl
    obtain rfl := Option.some.inj (hread.symm.trans h)
    rfl
  · rw [readCurve_none hge] at h
    cases h

/-- The 29 bytes of a record. -/
theorem exists_of_length_record {record : List Byte} (h : record.length = 29) :
    ∃ z f1 f0 reversed curveA curveB split w0 w1 w2 scale min1 min0 max1 max0 closeEmpty c settle t1 t0 tolerance enable g1 g0 d1 d0
      stepLimit sweepBase sweepGain, record = [z, f1, f0, reversed, curveA, curveB, split, w0, w1, w2, scale, min1, min0, max1, max0,
        closeEmpty, c, settle, t1, t0, tolerance, enable, g1, g0, d1, d0, stepLimit, sweepBase, sweepGain] := by
  match record, h with
  | [z, f1, f0, reversed, curveA, curveB, split, w0, w1, w2, scale, min1, min0, max1, max0, closeEmpty, c, settle, t1, t0, tolerance,
      enable, g1, g0, d1, d0, stepLimit, sweepBase, sweepGain], _ =>
    exact ⟨z, f1, f0, reversed, curveA, curveB, split, w0, w1, w2, scale, min1, min0, max1, max0, closeEmpty, c, settle, t1, t0,
      tolerance, enable, g1, g0, d1, d0, stepLimit, sweepBase, sweepGain, rfl⟩

/-- A record is read as what its fields say, and only as that (R12, R176). -/
theorem readConfig_eq_some_iff {record : List Byte} (hlength : record.length = 29) {c : TowerConfig} :
    readConfig record = some c ↔ ConfigFields record c := by
  obtain ⟨z, f1, f0, reversed, curveA, curveB, split, w0, w1, w2, scale, min1, min0, max1, max0, closeEmpty, concurrency, settle, t1, t0,
    tolerance, enable, g1, g0, d1, d0, stepLimit, sweepBase, sweepGain, rfl⟩ := exists_of_length_record hlength
  simp only [ConfigFields, field8_iff, field16_iff, List.getElem?_cons_succ, List.getElem?_cons_zero, Option.map_some, Option.bind_some,
    Option.some.injEq, ← be16_eq, readConfig, Option.bind_eq_bind, Option.bind_eq_some_iff, readFlag_eq_some_iff, readCurve_eq_some_iff,
    Option.pure_def]
  constructor
  · rintro ⟨_, hreversed, _, hA, _, hB, _, hclose, _, henable, rfl⟩
    exact ⟨rfl, rfl, rfl, hreversed, hA, hB, rfl, rfl, rfl, rfl, rfl, rfl, rfl, hclose, rfl, rfl, rfl, rfl,
      henable, rfl, rfl, rfl, rfl, rfl⟩
  · rintro ⟨-, hz, hf, hreversed, hA, hB, hsplit, hw0, hw1, hw2, hscale, hmin, hmax, hclose, hconcurrency, hsettle, htimeout, htolerance,
      henable, hgain, hdeadband, hstep, hbase, hsweep⟩
    refine ⟨_, hreversed, _, hA, _, hB, _, hclose, _, henable, ?_⟩
    rw [hz, hf, hsplit, hw0, hw1, hw2, hscale, hmin, hmax, hconcurrency, hsettle, htimeout, htolerance, hgain, hdeadband, hstep, hbase,
      hsweep]

/-! ### The checks of CONFIG SET (R12, R13) -/

theorem TowerConfig.clampScale_eq_taken (c : TowerConfig) : c.clampScale = c.taken := by
  have hscale : max 50 (min 150 c.metering.scale) = min 150 (max 50 c.metering.scale) := by omega
  rw [TowerConfig.clampScale, TowerConfig.taken, hscale]

theorem TowerConfig.taken_ne_iff (c : TowerConfig) : c.taken ≠ c ↔ c.metering.scale < 50 ∨ 150 < c.metering.scale := by
  constructor
  · intro h
    by_contra hin
    have hscale : min 150 (max 50 c.metering.scale) = c.metering.scale := by omega
    exact h (by rw [TowerConfig.taken, hscale])
  · intro h he
    have hscale : min 150 (max 50 c.metering.scale) = c.metering.scale := congrArg (fun c : TowerConfig => c.metering.scale) he
    omega

/-- What the state step of CONFIG SET refuses (R13). -/
theorem Tower.allowsConfig_eq_false_iff (tw : Tower) (c : TowerConfig) : tw.allowsConfig c = false ↔
    (c.geometry ≠ tw.config.geometry ∧ tw.state ≠ .dark) ∨
      (c.drive.concurrency ≠ tw.config.drive.concurrency ∧
        (tw.state ≠ .dark ∨ ∃ key ∈ tw.keys, key.drive.state = .moving)) := by
  have hmoving : tw.countIn .moving = 0 ↔ ¬∃ key ∈ tw.keys, key.drive.state = .moving := by
    simp [Tower.countIn, List.countP_eq_zero]
  simp only [Tower.allowsConfig, Bool.and_eq_false_iff, Bool.or_eq_false_iff, beq_eq_false_iff_ne, ne_eq, hmoving, not_not]

section ConfigSet

variable {b : Byte} {record : List Byte} {s : State} (hlength : record.length = 29)
include hlength

omit hlength in
theorem takeConfigSet_of_none (hnone : readTower b = none ∨ readConfig record = none) :
    takeConfigSet .console (b :: record) s = .error .range := by
  rcases hnone with h | h
  · simp only [takeConfigSet, h]
  · cases hb : readTower b <;> simp only [takeConfigSet, h, hb]

variable {c : TowerConfig} (hfields : ConfigFields record c)
include hfields

theorem takeConfigSet_of_out (hout : ¬c.InTable) : takeConfigSet .console (b :: record) s = .error .range := by
  have hread := (readConfig_eq_some_iff hlength).mpr hfields
  have hrange : c.inRange = false := Bool.eq_false_iff.mpr (mt c.inRange_iff.mp hout)
  cases hb : readTower b <;> simp [takeConfigSet, hread, hb, hrange]

variable {t : TowerIx} (hb : b.toNat = t.val) (hin : c.InTable)
include hb hin

theorem takeConfigSet_of_in : takeConfigSet .console (b :: record) s =
    if (s.tower t).allowsConfig c.taken then .ok (s.configure t c.taken, clampResult (decide (c.taken ≠ c)), [])
    else .error .state := by
  have hread := (readConfig_eq_some_iff hlength).mpr hfields
  have hrange : c.inRange = true := c.inRange_iff.mpr hin
  simp only [takeConfigSet, readTower_of_toNat hb, hread, hrange, if_true, c.clampScale_eq_taken]

/-- An accepted CONFIG SET. -/
theorem exec_configSet_ok (hfree : s.busy .console = false) (hallows : (s.tower t).allowsConfig c.taken = true) :
    exec (.configSet .console (b :: record)) s = .next ((s.configure t c.taken).sendReply .console
      [0xB0#8, if c.metering.scale < 50 ∨ 150 < c.metering.scale then 0x01#8 else 0x00#8]) := by
  have htake := takeConfigSet_of_in (s := s) hlength hfields hb hin
  rw [if_pos hallows] at htake
  have hearly : s.earlyRefusal .console .configSet (b :: record) = none :=
    s.earlyRefusal_configSet (by rw [List.length_cons, hlength])
  refine (exec_of_ok (fn := .configSet) (args := b :: record) hfree hearly htake).trans ?_
  rw [code_clampResult]
  simp only [decide_eq_true_eq, c.taken_ne_iff]
  rfl

end ConfigSet

/-- Settles O40. -/
theorem configSetIsChecked : Obligations.ConfigSetIsChecked := by
  intro b record s hfree hlength answer refused
  have hearly : s.earlyRefusal .console .configSet (b :: record) = none :=
    s.earlyRefusal_configSet (by rw [List.length_cons, hlength])
  have hrange : takeConfigSet .console (b :: record) s = .error .range → refused 0x07#8 :=
    exec_of_error (fn := .configSet) (r := .range) hfree hearly
  refine ⟨fun hb => hrange (takeConfigSet_of_none (.inl (readTower_none hb))), fun hnone => ?_, fun c hfields => ⟨fun hout => ?_,
    fun t hb hin => ?_⟩⟩
  · refine hrange (takeConfigSet_of_none (.inr ?_))
    cases hread : readConfig record with
    | none => rfl
    | some c => exact absurd ⟨c, (readConfig_eq_some_iff hlength).mp hread⟩ hnone
  · exact hrange (takeConfigSet_of_out hlength hfields hout)
  · intro tw clamped r blocked
    have hblocked : tw.allowsConfig c.taken = false ↔ blocked := tw.allowsConfig_eq_false_iff c.taken
    refine ⟨fun h => ?_, fun h => ?_⟩
    · refine exec_of_error (fn := .configSet) (r := .state) hfree hearly ((takeConfigSet_of_in hlength hfields hb hin).trans ?_)
      exact if_neg (by rw [hblocked.mpr h]; decide)
    · have hallows : tw.allowsConfig c.taken = true := Bool.not_eq_false _ ▸ mt hblocked.mp h
      have hexec := exec_configSet_ok hlength hfields hb hin hfree hallows
      refine ⟨⟨_, hexec, ?_, ?_⟩, fun hgeometry hmetering => ?_⟩
      · rw [State.sendReply_tower, State.configure_config]
      · rw [State.sendReply_port_same]
      · have hz : c.taken.geometry.z = tw.z := congrArg Geometry.z hgeometry
        have hconfigured : s.configure t c.taken = s.setTower t { tw with config := c.taken } := by
          unfold State.configure
          dsimp only
          rw [if_pos ⟨hgeometry, hmetering⟩, if_pos hz]
        rw [← hconfigured]
        exact hexec

end Sys2Proof.Machine

/-! SUPPORT. What an accepted CONFIG SET makes of its tower and of the write contexts (R14 to R16). -/

namespace Sys2Proof.Machine

/-! ### Outside the tower -/

theorem State.resetContexts_sameBut (s : State) (t : TowerIx) (z : Nat) : SameBut t s (s.resetContexts t z) :=
  ⟨rfl, rfl, rfl, rfl, rfl, fun _ _ => rfl⟩

theorem State.configure_sameBut (s : State) (t : TowerIx) (c : TowerConfig) : SameBut t s (s.configure t c) :=
  State.configure_keeps (P := SameBut t s) (fun u hu => hu.trans (u.refreshTower_sameBut t)) (fun _ => s.setTower_sameBut t _)
    fun _ => (s.setTower_sameBut t _).trans (State.resetContexts_sameBut _ t _)

theorem WriteContext.resetFor_of_ne {ctx : WriteContext} {t : TowerIx} (h : ctx.tower ≠ t) (z : Nat) : ctx.resetFor t z = ctx := if_neg h

/-- A reset moves the window and the pointer of a context, and nothing else (R15). -/
theorem WriteContext.resetFor_kept (ctx : WriteContext) (t : TowerIx) (z : Nat) :
    { ctx.resetFor t z with first := 0, last := 0, pointer := none } = { ctx with first := 0, last := 0, pointer := none } := by
  unfold WriteContext.resetFor
  split <;> rfl

theorem State.configure_cursor (s : State) (t : TowerIx) (c : TowerConfig) (q : MasterPort) :
    ((s.configure t c).port q).cursor = (s.port q).cursor := by
  rcases s.configure_port t c q with h | h <;> rw [h]

theorem State.configure_ctx_of_ne (s : State) {t : TowerIx} (c : TowerConfig) {q : MasterPort} (hq : (s.port q).ctx.tower ≠ t) :
    ((s.configure t c).port q).ctx = (s.port q).ctx := by
  rcases s.configure_port t c q with h | h <;> rw [h]
  exact WriteContext.resetFor_of_ne hq _

theorem State.configure_ctx_kept (s : State) (t : TowerIx) (c : TowerConfig) (q : MasterPort) :
    { ((s.configure t c).port q).ctx with first := 0, last := 0, pointer := none } =
      { (s.port q).ctx with first := 0, last := 0, pointer := none } := by
  rcases s.configure_port t c q with h | h <;> rw [h]
  exact WriteContext.resetFor_kept _ _ _

/-! ### A tower that keeps its keys (R14, R16) -/

section SameKeys

variable {s : State} {t : TowerIx} {c : TowerConfig} (hz : c.geometry.z = (s.tower t).z)
include hz

theorem State.configure_of_z : s.configure t c =
    if c.geometry = (s.tower t).config.geometry ∧ c.metering = (s.tower t).config.metering
    then s.setTower t { s.tower t with config := c } else (s.setTower t { s.tower t with config := c }).refreshTower t := by
  unfold State.configure
  dsimp only
  rw [if_pos hz]

theorem State.configure_port_of_z (q : MasterPort) : (s.configure t c).port q = s.port q := by
  rw [State.configure_of_z hz]
  split
  · rfl
  · rw [State.refreshTower, State.port_of_masters (State.refresh_masters ..)]
    rfl

theorem State.configure_tower_of_z : (s.configure t c).tower t =
    if c.geometry = (s.tower t).config.geometry ∧ c.metering = (s.tower t).config.metering
    then { s.tower t with config := c }
    else ({ s.tower t with config := c } : Tower).refresh s.curves (s.tower t).allKeys true := by
  rw [State.configure_of_z hz]
  split
  · exact s.tower_setTower_same t _
  · rw [State.refreshTower_tower, if_pos rfl, State.tower_setTower_same]
    rw [show ({ s.tower t with config := c } : Tower).allKeys = (s.tower t).allKeys from congrArg List.range hz]
    rfl

end SameKeys

theorem Drive.state_of_moveTarget {d : Drive} {n : Nat} (h : d.moveTarget = some n) : d.state = .moving := by
  cases d with
  | moving => rfl
  | unknown | idle | queued | faulted => cases h

/-- What a refresh of a tower keeps of each of its keys (R14). -/
theorem Tower.refresh_key_kept (curves : Vector (List Point) 16) (tw : Tower) {k : Nat} {key : KeyRec} (hkey : tw.keys[k]? = some key) :
    ∃ key' : KeyRec, (tw.refresh curves tw.allKeys true).keys[k]? = some key' ∧ key'.drive.position = key.drive.position ∧
      key'.trim = key.trim ∧ key'.acc = key.acc ∧ key'.settleUntil = key.settleUntil ∧
      ∀ n, key.drive.moveTarget = some n → key'.drive = key.drive := by
  obtain ⟨key', hkey', hposition, hkept⟩ := tw.handedOn_refresh curves tw.allKeys true k key hkey
  have hundriven := tw.refresh_key curves tw.allKeys_nodup true k
  rw [hkey', hkey, Option.map_some, Option.map_some, Option.some.injEq] at hundriven
  have hpreset : ∀ preset : KeyRec, preset = (if k ∈ tw.allKeys then tw.presetKey curves k key else key) →
      preset.trim = key.trim ∧ preset.acc = key.acc ∧ preset.settleUntil = key.settleUntil := by
    rintro preset rfl
    unfold Tower.presetKey
    repeat' split
    all_goals exact ⟨rfl, rfl, rfl⟩
  obtain ⟨htrim, hacc, hsettle⟩ := hpreset _ rfl
  exact ⟨key', hkey', hposition, (congrArg KeyRec.trim hundriven).trans htrim, (congrArg KeyRec.acc hundriven).trans hacc,
    (congrArg KeyRec.settleUntil hundriven).trans hsettle,
    fun n hn => hkept (by rw [Drive.state_of_moveTarget hn]; decide)⟩

/-! ### A tower that is reshaped (R15) -/

/-- A reshaped tower: the keys it adds are surveyed in ascending order. -/
theorem Tower.reshape_eq (tw : Tower) (z : Nat) : tw.reshape z = { tw with
    run := Slot.emptied z
    next := Slot.emptied z
    keys := tw.keys.take z ++ List.replicate (z - tw.keys.length) KeyRec.fresh
    moving := tw.moving - (tw.keys.drop z).countP fun key : KeyRec => key.drive.state == DriveState.moving
    port := tw.port.sendAll ((List.range' tw.keys.length (z - tw.keys.length)).map .ask) } := by
  have hkeys : (tw.keys.take z ++ List.replicate (z - tw.keys.length) KeyRec.fresh).mapIdx (fun k (key : KeyRec) =>
      if k ∈ List.range' tw.keys.length (z - tw.keys.length) then { key with drive := Drive.unknown } else key) =
      tw.keys.take z ++ List.replicate (z - tw.keys.length) KeyRec.fresh := by
    refine List.ext_getElem? fun k => ?_
    rw [List.getElem?_mapIdx]
    cases hk : (tw.keys.take z ++ List.replicate (z - tw.keys.length) KeyRec.fresh)[k]? with
    | none => rfl
    | some key =>
      rw [Option.map_some]
      split
      · next hmem =>
        rw [List.mem_range'_1] at hmem
        rw [List.getElem?_append_right (by rw [List.length_take]; omega)] at hk
        obtain rfl := List.eq_of_mem_replicate (List.mem_of_getElem? hk)
        rfl
      · rfl
  unfold Tower.reshape
  dsimp only
  rw [Tower.surveyAll_eq, ← List.range'_eq_map_range]
  dsimp only
  rw [hkeys]

theorem Tower.length_reshape_keys {tw : Tower} (z : Nat) :
    (tw.keys.take z ++ List.replicate (z - tw.keys.length) KeyRec.fresh).length = z := by
  rw [List.length_append, List.length_take, List.length_replicate]
  omega

section Reshaped

variable {s : State} {t : TowerIx} {c : TowerConfig} (hz : c.geometry.z ≠ (s.tower t).z)
include hz

/-- A change of Z: the tower reshaped and refreshed. -/
theorem State.configure_of_z_ne : s.configure t c =
    ((s.setTower t (Tower.reshape { s.tower t with config := c } c.geometry.z)).resetContexts t c.geometry.z).refreshTower t := by
  unfold State.configure
  dsimp only
  rw [if_neg hz, if_neg (fun h => hz (congrArg Geometry.z h.1))]

variable (hdark : (s.tower t).state = .dark) (hqueue : (s.tower t).QueueSound) (hlength : (s.tower t).keys.length = (s.tower t).z)
include hdark hqueue hlength

/-- The tower that a change of Z leaves: both slots EMPTY, so no key has a target and the sweep is absent. -/
theorem State.configure_tower_of_z_ne : (s.configure t c).tower t = { s.tower t with
    config := c
    run := Slot.emptied c.geometry.z
    next := Slot.emptied c.geometry.z
    sweep := none
    keys := ((s.tower t).keys.take c.geometry.z ++ List.replicate (c.geometry.z - (s.tower t).z) KeyRec.fresh).map
      fun key => { key with effective := none, target := none }
    moving := (s.tower t).moving -
      ((s.tower t).keys.drop c.geometry.z).countP fun key : KeyRec => key.drive.state == DriveState.moving
    port := (s.tower t).port.sendAll ((List.range' (s.tower t).z (c.geometry.z - (s.tower t).z)).map .ask) } := by
  rw [State.configure_of_z_ne hz, State.refreshTower_tower, if_pos rfl, State.resetContexts_tower, State.tower_setTower_same,
    State.resetContexts_curves, State.setTower_curves, Tower.reshape_eq]
  generalize s.tower t = tw at *
  generalize hreshaped : ({ tw with
    config := c
    run := Slot.emptied c.geometry.z
    next := Slot.emptied c.geometry.z
    keys := tw.keys.take c.geometry.z ++ List.replicate (c.geometry.z - tw.keys.length) KeyRec.fresh
    moving := tw.moving - (tw.keys.drop c.geometry.z).countP fun key : KeyRec => key.drive.state == DriveState.moving
    port := tw.port.sendAll ((List.range' tw.keys.length (c.geometry.z - tw.keys.length)).map .ask) } : Tower) = reshaped
  have hstate : reshaped.state = .dark := by rw [← hreshaped]; exact hdark
  have hcomplete : reshaped.run.complete = false := by rw [← hreshaped]; exact Slot.emptied_complete _
  have hkeys : reshaped.keys = tw.keys.take c.geometry.z ++ List.replicate (c.geometry.z - tw.keys.length) KeyRec.fresh := by
    rw [← hreshaped]
  have hall : reshaped.allKeys = List.range c.geometry.z := by rw [← hreshaped]; rfl
  have hunqueued : ∀ k ∈ reshaped.allKeys, ∀ key : KeyRec, reshaped.keys[k]? = some key → key.drive.state ≠ .queued := by
    intro k _ key hk
    rw [hkeys] at hk
    rcases List.mem_append.mp (List.mem_of_getElem? hk) with hmem | hmem
    · obtain ⟨j, hj⟩ := List.getElem?_of_mem (List.mem_of_mem_take hmem)
      exact hqueue.not_queued_of_dark hdark hj
    · rw [List.eq_of_mem_replicate hmem]
      decide
  have hpreset : reshaped.keys.mapIdx (fun k key => if k ∈ reshaped.allKeys then reshaped.presetKey s.curves k key else key) =
      reshaped.keys.map fun key => { key with effective := none, target := none } := by
    refine List.ext_getElem? fun k => ?_
    rw [List.getElem?_mapIdx, List.getElem?_map]
    cases hk : reshaped.keys[k]? with
    | none => rfl
    | some key =>
      have hlt : k < c.geometry.z := by
        have hlt := (List.getElem?_eq_some_iff.mp hk).1
        rwa [hkeys, Tower.length_reshape_keys] at hlt
      rw [Option.map_some, Option.map_some, if_pos (by rw [hall]; exact List.mem_range.mpr hlt), Tower.presetKey_of_incomplete hcomplete]
  have hsweep : (reshaped.refresh s.curves reshaped.allKeys true).sweep = none := by
    have hrun : (reshaped.allKeys.foldl (Tower.refreshKey s.curves) reshaped).run = reshaped.run :=
      (reshaped.refresh_leaves s.curves reshaped.allKeys_nodup false).2.1
    show (reshaped.allKeys.foldl (Tower.refreshKey s.curves) reshaped).refreshSweep.sweep = none
    rw [Tower.refreshSweep_sweep, hrun, hcomplete]
    rfl
  rw [Tower.refresh_of_dark s.curves reshaped.allKeys_nodup hstate hunqueued, hsweep, hpreset, hkeys, ← hreshaped, hlength]

theorem State.configure_faults_of_z_ne : (s.configure t c).faults = s.faults := by
  have hrun : ((s.configure t c).tower t).run = Slot.emptied c.geometry.z := by
    rw [State.configure_tower_of_z_ne hz hdark hqueue hlength]
  have hfaults := State.refreshTower_faults
    ((s.setTower t (Tower.reshape { s.tower t with config := c } c.geometry.z)).resetContexts t c.geometry.z) t
  rw [← State.configure_of_z_ne hz] at hfaults
  rw [hfaults, State.faultsAfter, hrun, Slot.emptied_complete, if_neg (fun h => Bool.noConfusion h.1)]
  rfl

end Reshaped

theorem State.configure_counters (s : State) (t : TowerIx) (c : TowerConfig) :
    ((s.configure t c).tower t).counters = (s.tower t).counters := by
  refine State.configure_keeps (P := fun u => (u.tower t).counters = (s.tower t).counters) (fun u hu => ?_) (fun _ => ?_) fun _ => ?_
  · obtain ⟨-, -, -, hcounters, -⟩ := (u.tower t).refresh_leaves u.curves (u.tower t).allKeys_nodup true
    rw [State.refreshTower_tower, if_pos rfl]
    exact hcounters.trans hu
  · rw [State.tower_setTower_same]
  · rw [State.resetContexts_tower, State.tower_setTower_same, Tower.reshape_eq]

/-- Settles O41. -/
theorem configChangeRefreshesOrReshapes : Obligations.ConfigChangeRefreshesOrReshapes := by
  intro t b record c s hfree hb hfields hin hshape hqueue tw r hgeometry hconcurrency
  obtain ⟨-, hlength, -, -⟩ := hshape
  have hrecord : record.length = 29 := hfields.1
  have hallows : tw.allowsConfig c.taken = true := by
    refine Bool.not_eq_false _ ▸ mt (tw.allowsConfig_eq_false_iff c.taken).mp ?_
    rintro (⟨hne, hstate⟩ | ⟨hne, hblock⟩)
    · exact hgeometry.elim hne hstate
    · rcases hconcurrency with heq | ⟨hdark, hstill⟩
      · exact hne heq
      · rcases hblock with hstate | ⟨key, hmem, hmoving⟩
        · exact hstate hdark
        · exact hstill key hmem hmoving
  refine ⟨_, exec_configSet_ok hrecord hfields hb hin hfree hallows, ?_⟩
  have hreply : (((s.configure t c.taken).sendReply .console [0xB0#8, r]).port .console).reply = some [0xB0#8, r] := by
    rw [State.sendReply_port_same]
  show ((State.port ((s.configure t c.taken).sendReply .console [0xB0#8, r]) .console).reply = _) ∧ _
  simp only [State.sendReply_tower, State.sendReply_ctx, State.sendReply_cursor, State.sendReply_faults, State.sendReply_curves]
  refine ⟨hreply, (s.configure_sameBut t c.taken).sendReply .console _, s.configure_config t c.taken,
    s.configure_counters t c.taken, fun q hq => s.configure_ctx_of_ne c.taken hq,
    fun q => ⟨s.configure_cursor t c.taken q, s.configure_ctx_kept t c.taken q⟩, fun hz => ?_, fun hz => ?_⟩
  · replace hz : c.taken.geometry.z = (s.tower t).z := hz
    have htower := State.configure_tower_of_z hz
    have hport : ∀ q, ((s.configure t c.taken).port q).ctx = (s.port q).ctx := fun q => by rw [State.configure_port_of_z hz]
    by_cases hsame : c.taken.geometry = tw.config.geometry ∧ c.taken.metering = tw.config.metering
    · rw [if_pos hsame] at htower
      rw [htower]
      exact ⟨rfl, rfl, hport, rfl, fun k key hkey => ⟨key, hkey, rfl, rfl, rfl, rfl, fun _ _ => rfl⟩, fun hne => absurd hsame hne⟩
    · rw [if_neg hsame] at htower
      have hall : tw.allKeys = ({ tw with config := c.taken } : Tower).allKeys := (congrArg List.range hz).symm
      rw [htower, hall, (s.configure_sameBut t c.taken).2.2.1]
      obtain ⟨-, hrun, hnext, -, -⟩ := Tower.refresh_leaves s.curves (Tower.allKeys_nodup { tw with config := c.taken }) true
        { tw with config := c.taken }
      exact ⟨hrun, hnext, hport, (Tower.keeps_refresh ..).length, fun k key hkey => Tower.refresh_key_kept s.curves _ hkey,
        fun _ => Tower.refreshAll_presetsCurrent s.curves (hlength.trans hz.symm)⟩
  · replace hz : c.taken.geometry.z ≠ (s.tower t).z := hz
    have hdark : tw.state = .dark := hgeometry.resolve_left fun h => hz (congrArg Geometry.z h)
    have htower := State.configure_tower_of_z_ne hz hdark hqueue hlength
    rw [htower]
    refine ⟨rfl, rfl, hdark, hqueue.2.2.1 hdark, rfl, rfl, State.configure_faults_of_z_ne hz hdark hqueue hlength, ?_, ?_, ?_, ?_, rfl⟩
    · rw [List.length_map, ← hlength, Tower.length_reshape_keys]
      rfl
    · intro k key hk hkey
      replace hk : k < c.taken.geometry.z := hk
      rw [List.getElem?_map, List.getElem?_append_left (by
        rw [List.length_take]; exact lt_min hk (List.getElem?_eq_some_iff.mp hkey).1), List.getElem?_take_of_lt hk, hkey]
      rfl
    · intro k hk hkz
      have htaken : (tw.keys.take c.taken.geometry.z).length = tw.z := by
        rw [List.length_take, hlength]
        exact min_eq_right (hk.trans hkz.le)
      rw [List.getElem?_map, List.getElem?_append_right (htaken.trans_le hk), List.getElem?_replicate_of_lt (by
        rw [htaken]; exact Nat.sub_lt_sub_right hk hkz)]
      rfl
    · show tw.moving - List.countP _ _ = _
      rw [List.countP_eq_length_filter]
      rfl

end Sys2Proof.Machine

/-! SUPPORT. The dispatch checks between the changes of one event, made once at its end (R126, R127). -/

namespace Sys2Proof.Machine

/-! ### The dispatch check, head by head -/

/-- One turn of the dispatch check written out: when it sends and what it leaves. -/
theorem Tower.dispatchHead_iff {tw tw' : Tower} : tw.dispatchHead = some tw' ↔ ∃ k rest key q g, tw.queue = k :: rest ∧
    tw.running = true ∧ tw.moving < tw.config.drive.concurrency ∧ tw.keys[k]? = some key ∧ key.drive = .queued q ∧
    key.target = some g ∧ tw' = { tw with
      keys := tw.keys.set k { key with drive := .moving q g.steps tw.config.drive.moveTimeout }
      queue := rest
      moving := tw.moving + 1
      port := tw.port.send (.move k g.steps) } := by
  have hset : ∀ {k q : Nat} {rest : List Nat} {key : KeyRec} {g : Target}, tw.keys[k]? = some key →
      ((({ tw with queue := rest, moving := tw.moving + 1 } : Tower).setDrive k
        (.moving q g.steps tw.config.drive.moveTimeout)).send (.move k g.steps) : Tower) = { tw with
      keys := tw.keys.set k { key with drive := .moving q g.steps tw.config.drive.moveTimeout }
      queue := rest
      moving := tw.moving + 1
      port := tw.port.send (.move k g.steps) } := fun {k q rest key g} hkey => by
    rw [setDrive_eq (tw := { tw with queue := rest, moving := tw.moving + 1 }) hkey]
    rfl
  constructor
  · intro h
    obtain ⟨k, rest, key, q, g, hqueue, hrunning, hslot, hkey, hdrive, htarget, rfl⟩ := Tower.dispatchHead_eq_some h
    exact ⟨k, rest, key, q, g, hqueue, hrunning, hslot, hkey, hdrive, htarget, hset hkey⟩
  · rintro ⟨k, rest, key, q, g, hqueue, hrunning, hslot, hkey, hdrive, htarget, rfl⟩
    rw [Tower.dispatchHead_of_head hqueue hrunning hslot hkey hdrive htarget, hset hkey]

theorem Tower.dispatch_of_head {tw tw' : Tower} (h : tw.dispatchHead = some tw') : tw.dispatch = tw'.dispatch := by
  obtain ⟨k, rest, key, q, g, hqueue, -, -, -, -, -, rfl⟩ := Tower.dispatchHead_iff.mp h
  unfold Tower.dispatch
  rw [hqueue, List.length_cons, Tower.dispatchTurns, h]

/-- What holds where no key can be sent, and before each turn where it holds after it, holds of every tower. -/
theorem Tower.dispatch_induction {P : Tower → Prop} (hend : ∀ tw, tw.dispatchHead = none → P tw)
    (hhead : ∀ tw tw', tw.dispatchHead = some tw' → P tw' → P tw) (tw : Tower) : P tw := by
  cases h : tw.dispatchHead with
  | none => exact hend tw h
  | some tw' => exact hhead tw tw' h (Tower.dispatch_induction hend hhead tw')
termination_by tw.queue.length
decreasing_by
  obtain ⟨k, rest, key, q, g, hqueue, -, -, -, -, -, rfl⟩ := Tower.dispatchHead_iff.mp h
  rw [hqueue]
  exact Nat.lt_succ_self _

/-- After the dispatch check no key can be sent. -/
theorem Tower.dispatchHead_dispatch (tw : Tower) : tw.dispatch.dispatchHead = none := by
  induction tw using Tower.dispatch_induction with
  | hend tw h => rw [Tower.dispatch_of_no_head h, h]
  | hhead tw tw' h ih => rw [Tower.dispatch_of_head h, ih]

theorem Tower.dispatch_dispatch (tw : Tower) : tw.dispatch.dispatch = tw.dispatch :=
  Tower.dispatch_of_no_head tw.dispatchHead_dispatch

theorem Tower.QueueReady.dispatch {tw : Tower} (h : tw.QueueReady) : tw.dispatch.QueueReady :=
  Tower.dispatch_keeps (fun _ _ h e => h.dispatchHead e) h

/-! ### What the dispatch check leaves of a key that is not QUEUED -/

theorem Tower.dispatchHead_key {tw tw' : Tower} (h : tw.dispatchHead = some tw') {k : Nat} (hk : tw.isQueued k = false) :
    tw'.keys[k]? = tw.keys[k]? := by
  obtain ⟨j, rest, key, q, g, -, -, -, hkey, hdrive, -, rfl⟩ := Tower.dispatchHead_iff.mp h
  have hne : j ≠ k := fun e => by simp [Tower.isQueued, ← e, hkey, hdrive, Drive.state] at hk
  exact List.getElem?_set_ne hne

theorem Tower.dispatchHead_isQueued {tw tw' : Tower} (h : tw.dispatchHead = some tw') {k : Nat} (hk : tw.isQueued k = false) :
    tw'.isQueued k = false := by
  rw [Tower.isQueued, Tower.dispatchHead_key h hk]
  exact hk

theorem Tower.dispatch_key (tw : Tower) {k : Nat} (hk : tw.isQueued k = false) : tw.dispatch.keys[k]? = tw.keys[k]? := by
  induction tw using Tower.dispatch_induction with
  | hend tw h => rw [Tower.dispatch_of_no_head h]
  | hhead tw tw' h ih => rw [Tower.dispatch_of_head h, ih (Tower.dispatchHead_isQueued h hk), Tower.dispatchHead_key h hk]

/-- The dispatch check brings no key to where it is not, nor away from it. -/
theorem Tower.isAway_dispatchHead {tw tw' : Tower} (h : tw.dispatchHead = some tw') (k : Nat) : tw'.isAway k = tw.isAway k := by
  cases hk : tw.isQueued k with
  | false => rw [Tower.isAway, Tower.isAway, Tower.dispatchHead_key h hk]
  | true =>
    obtain ⟨j, rest, key, q, g, -, -, -, hkey, hdrive, -, rfl⟩ := Tower.dispatchHead_iff.mp h
    by_cases hj : j = k
    · subst hj
      simp only [Tower.isAway, getElem?_set_of_getElem? hkey, hkey, hdrive]
    · simp only [Tower.isAway, List.getElem?_set_ne hj]

theorem Tower.isAway_dispatch (tw : Tower) (k : Nat) : tw.dispatch.isAway k = tw.isAway k := by
  induction tw using Tower.dispatch_induction with
  | hend tw h => rw [Tower.dispatch_of_no_head h]
  | hhead tw tw' h ih => rw [Tower.dispatch_of_head h, ih, Tower.isAway_dispatchHead h]

/-! ### Changes before and after the dispatch check -/

theorem Tower.isQueued_of_key {tw : Tower} {k : Nat} {key : KeyRec} (hkey : tw.keys[k]? = some key) :
    tw.isQueued k = decide (key.drive.state = .queued) := by
  rw [Tower.isQueued, hkey, Bool.eq_iff_iff]
  simp

/-- A record of a key that is not QUEUED is written before the dispatch check as after it. -/
theorem Tower.dispatch_setKey (tw : Tower) {k : Nat} {old : KeyRec} (hold : tw.keys[k]? = some old) (hstate : old.drive.state ≠ .queued)
    {new : KeyRec} (hnew : new.drive.state ≠ .queued) :
    ({ tw with keys := tw.keys.set k new } : Tower).dispatch = { tw.dispatch with keys := tw.dispatch.keys.set k new } := by
  have hk : ∀ tw : Tower, tw.keys[k]? = some old → tw.isQueued k = false := fun tw h => by simp [Tower.isQueued_of_key h, hstate]
  induction tw using Tower.dispatch_induction with
  | hhead tw tw' h ih =>
    have hrest := ih ((Tower.dispatchHead_key h (hk tw hold)).trans hold)
    rw [Tower.dispatch_of_head h, ← hrest]
    obtain ⟨j, rest, key, q, g, hqueue, hrunning, hslot, hkey, hdrive, htarget, rfl⟩ := Tower.dispatchHead_iff.mp h
    have hne : k ≠ j := fun e => by
      subst e
      obtain rfl := Option.some.inj (hold.symm.trans hkey)
      exact hstate (by rw [hdrive]; rfl)
    refine Tower.dispatch_of_head (Tower.dispatchHead_iff.mpr ⟨j, rest, key, q, g, hqueue, hrunning, hslot,
      (List.getElem?_set_ne hne).trans hkey, hdrive, htarget, ?_⟩)
    dsimp only
    rw [List.set_comm _ _ hne]
  | hend tw h =>
    rw [Tower.dispatch_of_no_head h]
    refine Tower.dispatch_of_no_head (Option.eq_none_iff_forall_ne_some.mpr fun tw' h' => ?_)
    obtain ⟨j, rest, key, q, g, hqueue, hrunning, hslot, hkey, hdrive, htarget, -⟩ := Tower.dispatchHead_iff.mp h'
    have hne : k ≠ j := fun e => by
      subst e
      obtain rfl := Option.some.inj ((getElem?_set_of_getElem? hold new).symm.trans hkey)
      exact hnew (by rw [hdrive]; rfl)
    have hold' : tw.keys[j]? = some key := (List.getElem?_set_ne hne).symm.trans hkey
    have hhead := (Tower.dispatchHead_iff (tw := tw)).mpr
      ⟨j, rest, key, q, g, hqueue, hrunning, hslot, hold', hdrive, htarget, rfl⟩
    rw [h] at hhead
    cases hhead

/-- The tail of the queue is no concern of a turn that sends its head. -/
theorem Tower.dispatchHead_enqueue {tw tw' : Tower} (h : tw.dispatchHead = some tw') {k q : Nat} {key : KeyRec}
    (hkey : tw.keys[k]? = some key) (hidle : key.drive = .idle q) : (tw.enqueue k).dispatchHead = some (tw'.enqueue k) := by
  have hkept := Tower.dispatchHead_key h (k := k) (by simp [Tower.isQueued_of_key hkey, hidle, Drive.state])
  rw [Tower.enqueue_eq hkey hidle, Tower.enqueue_eq (hkept.trans hkey) hidle]
  obtain ⟨j, rest, head, x, g, hqueue, hrunning, hslot, hhead, hdrive, htarget, rfl⟩ := Tower.dispatchHead_iff.mp h
  have hne : k ≠ j := fun e => by
    subst e
    obtain rfl := Option.some.inj (hkey.symm.trans hhead)
    rw [hidle] at hdrive
    cases hdrive
  refine Tower.dispatchHead_iff.mpr ⟨j, rest ++ [k], head, x, g, by rw [hqueue]; rfl, hrunning, hslot,
    (List.getElem?_set_ne hne).trans hhead, hdrive, htarget, ?_⟩
  dsimp only
  rw [List.set_comm _ _ hne]

/-- A key that joins the queue after a dispatch check is sent as one that joined before it. -/
theorem Tower.dispatch_enqueue (tw : Tower) {k q : Nat} {key : KeyRec} (hkey : tw.keys[k]? = some key) (hidle : key.drive = .idle q) :
    (tw.dispatch.enqueue k).dispatch = (tw.enqueue k).dispatch := by
  induction tw using Tower.dispatch_induction with
  | hend tw h => rw [Tower.dispatch_of_no_head h]
  | hhead tw tw' h ih =>
    have hkept := Tower.dispatchHead_key h (k := k) (by simp [Tower.isQueued_of_key hkey, hidle, Drive.state])
    rw [Tower.dispatch_of_head h, ih (hkept.trans hkey), Tower.dispatch_of_head (Tower.dispatchHead_enqueue h hkey hidle)]

theorem Tower.enqueueAway_cons (tw : Tower) (k : Nat) (ks : List Nat) :
    tw.enqueueAway (k :: ks) = (if tw.isAway k then tw.enqueue k else tw).enqueueAway ks := rfl

/-- Keys that seek their targets one by one, each with its dispatch check, are sent as if they had joined the queue together. -/
theorem Tower.seekTargets_eq (ks : List Nat) {tw : Tower} (hstate : tw.state ≠ .dark) :
    ks.foldl Tower.seekTarget tw.dispatch = (tw.enqueueAway ks).dispatch := by
  induction ks generalizing tw with
  | nil => rfl
  | cons k ks ih =>
    have hseek : tw.dispatch.seekTarget k = (if tw.isAway k then tw.enqueue k else tw).dispatch := by
      have hrunning : (tw.dispatch.state != .dark) = true := by simpa using hstate
      rw [Tower.seekTarget, hrunning, Bool.true_and, Tower.isAway_dispatch]
      cases haway : tw.isAway k with
      | false => rfl
      | true =>
        obtain ⟨key, q, g, hkey, hidle, -, -⟩ := (tw.isAway_iff k).mp haway
        exact tw.dispatch_enqueue hkey hidle
    rw [List.foldl_cons, hseek, Tower.enqueueAway_cons]
    refine ih ?_
    split <;> exact hstate

/-- The keys that stand away join the queue after a dispatch check as before it. -/
theorem Tower.dispatch_enqueueAway (ks : List Nat) {tw : Tower} (hstate : tw.state ≠ .dark) :
    (tw.dispatch.enqueueAway ks).dispatch = (tw.enqueueAway ks).dispatch := by
  rw [← Tower.seekTargets_eq ks hstate, ← Tower.seekTargets_eq ks (tw := tw.dispatch) (by simpa using hstate), Tower.dispatch_dispatch]

theorem Tower.QueueReady.enqueue {tw : Tower} (h : tw.QueueReady) {k : Nat} (haway : tw.isAway k = true) : (tw.enqueue k).QueueReady := by
  obtain ⟨key, q, g, hkey, hidle, htarget, -⟩ := (tw.isAway_iff k).mp haway
  have hnot : k ∉ tw.queue := fun hmem => by
    obtain ⟨key', q', -, hkey', hdrive', -⟩ := h.2 k hmem
    obtain rfl := Option.some.inj (hkey.symm.trans hkey')
    rw [hidle] at hdrive'
    cases hdrive'
  rw [Tower.enqueue_eq hkey hidle]
  exact h.append hnot (List.getElem?_eq_some_iff.mp hkey).1 (q := q) rfl htarget

theorem Tower.QueueReady.enqueueAway {tw : Tower} (h : tw.QueueReady) (ks : List Nat) : (tw.enqueueAway ks).QueueReady := by
  induction ks generalizing tw with
  | nil => exact h
  | cons k ks ih =>
    rw [Tower.enqueueAway_cons]
    cases haway : tw.isAway k with
    | false => exact ih h
    | true => exact ih (h.enqueue haway)

/-! ### A refresh in a running tower -/

/-- Every motor slot of the tower is taken, or none of these keys is QUEUED: a refresh of them frees no motor slot and drains no
queue (R118, R126). -/
def Tower.OpenTo (tw : Tower) (ks : List Nat) : Prop :=
  1 ≤ tw.config.drive.concurrency ∧ (tw.config.drive.concurrency ≤ tw.moving ∨ ∀ k ∈ ks, tw.isQueued k = false)

section Running

variable (curves : Vector (List Point) 16)

/-- A refresh of one key after a dispatch check, with its own dispatch check. -/
theorem Tower.refreshKey_dispatch {tw : Tower} {k : Nat} (hopen : tw.OpenTo [k]) :
    tw.dispatch.refreshKey curves k = (tw.quietRefresh curves [k]).dispatch := by
  obtain ⟨hpos, hopen⟩ := hopen
  rcases hopen with hfull | hopen
  · have hrefreshed : (tw.quietRefresh curves [k]).dispatch = tw.quietRefresh curves [k] := Tower.dispatch_of_full hfull
    have hdrain : (tw.quietRefresh curves [k]).drainCheck = tw.quietRefresh curves [k] :=
      if_neg fun h => by
        have hnone : tw.moving = 0 := h.2.2
        omega
    rw [Tower.dispatch_of_full hfull, hrefreshed]
    cases hkey : tw.keys[k]? with
    | none => rw [Tower.quietRefresh_of_no_key curves hkey, Tower.refreshKey, hkey]
    | some key => rw [Tower.refreshKey_of_key curves hkey, hrefreshed, hdrain, ite_self, ite_self]
  · have hqueued := hopen k List.mem_cons_self
    have hkept := tw.dispatch_key hqueued
    cases hkey : tw.keys[k]? with
    | none =>
      rw [Tower.quietRefresh_of_no_key curves hkey, Tower.refreshKey, hkept, hkey]
    | some key =>
      have hstate : key.drive.state ≠ .queued := by simpa [Tower.isQueued_of_key hkey] using hqueued
      have hpreset : tw.dispatch.presetKey curves k key = tw.presetKey curves k key :=
        tw.driveOnly_dispatch.1.presetKey curves k key
      have hnew : (tw.presetKey curves k key).drive = key.drive := Tower.presetKey_drive ..
      have hjoins : tw.dispatch.joinsLine curves k = tw.joinsLine curves k := by
        rw [Tower.joinsLine_of_key curves hkey, Tower.joinsLine_of_key curves (hkept.trans hkey), hpreset, Tower.dispatch_state]
      have hleaves : tw.leavesLine curves k = false := by
        rw [Tower.leavesLine_of_key curves hkey]
        exact KeyRec.leaves_eq_false (.inr hstate)
      have hleaves' : tw.dispatch.leavesLine curves k = false := by
        rw [Tower.leavesLine_of_key curves (hkept.trans hkey)]
        exact KeyRec.leaves_eq_false (.inr hstate)
      have hwritten : ((tw.updateKey k fun _ => tw.presetKey curves k key).dispatch : Tower) =
          tw.dispatch.updateKey k fun _ => tw.presetKey curves k key := by
        rw [Tower.updateKey_eq hkey, Tower.updateKey_eq (hkept.trans hkey)]
        exact tw.dispatch_setKey hkey hstate (by rw [hnew]; exact hstate)
      rw [Tower.refreshKey_of_key curves (hkept.trans hkey), Tower.quietRefresh_key curves (hkept.trans hkey),
        Tower.quietRefresh_key curves hkey, hjoins, hleaves, hleaves', hpreset, ← hwritten]
      cases hj : tw.joinsLine curves k with
      | false => rfl
      | true =>
        rw [Tower.joinsLine_of_key curves hkey, Bool.and_eq_true] at hj
        obtain ⟨q, n, hidle, -⟩ := (KeyRec.joins_iff ..).mp hj.2
        refine Tower.dispatch_enqueue _ (q := q) (key := tw.presetKey curves k key) ?_ (hnew.trans hidle)
        rw [Tower.updateKey_eq hkey]
        exact getElem?_set_of_getElem? hkey _

theorem Tower.refreshKeys_dispatch {ks : List Nat} (hnodup : ks.Nodup) {tw : Tower} (hopen : tw.OpenTo ks) :
    ks.foldl (Tower.refreshKey curves) tw.dispatch = (tw.quietRefresh curves ks).dispatch := by
  induction ks generalizing tw with
  | nil => rw [Tower.quietRefresh_nil]; rfl
  | cons k ks ih =>
    obtain ⟨hk, hrest⟩ := List.nodup_cons.mp hnodup
    obtain ⟨hpos, hopen⟩ := hopen
    have hone : tw.OpenTo [k] := ⟨hpos, hopen.imp_right fun h j hj => h j (List.mem_cons.mpr (.inl (List.mem_singleton.mp hj)))⟩
    have hothers : (tw.quietRefresh curves [k]).OpenTo ks := ⟨hpos, hopen.imp_right fun h j hj => by
      have hne : j ∉ [k] := fun e => hk (List.mem_singleton.mp e ▸ hj)
      rw [Tower.isQueued, Tower.getElem?_quietRefresh]
      simp only [if_neg hne, Option.map_id']
      exact h j (List.mem_cons_of_mem _ hj)⟩
    rw [List.foldl_cons, Tower.refreshKey_dispatch curves hone, ih hrest hothers, ← Tower.quietRefresh_cons curves hk]

end Running

end Sys2Proof.Machine

/-! SUPPORT. The line of keys that a job change leaves, before any is sent (R113 steps 7 and 8, R128). -/

namespace Sys2Proof.Machine

/-- The tower once a refresh of every key, and then every key that stands away, have been taken into the queue and none sent. -/
def Tower.lined (curves : Vector (List Point) 16) (tw : Tower) : Tower :=
  (tw.quietRefresh curves tw.allKeys).enqueueAway tw.allKeys

/-- The record that key k has in that line. -/
def Tower.linedRecord (curves : Vector (List Point) 16) (tw : Tower) (k : Nat) (key : KeyRec) : KeyRec :=
  { tw.quietRecord curves k key with
    drive :=
      if (tw.quietRefresh curves tw.allKeys).isAway k then (tw.quietRecord curves k key).drive.toQueued
      else (tw.quietRecord curves k key).drive }

theorem Tower.isAway_of_key {tw : Tower} {k : Nat} {key : KeyRec} (hkey : tw.keys[k]? = some key) :
    tw.isAway k = true ↔ ∃ q n, key.drive = .idle q ∧ key.steps = some n ∧ n ≠ q := by
  rw [Tower.isAway_iff]
  constructor
  · rintro ⟨key', q, g, hkey', hdrive, htarget, hne⟩
    obtain rfl := Option.some.inj (hkey.symm.trans hkey')
    exact ⟨q, g.steps, hdrive, by rw [KeyRec.steps, htarget]; rfl, hne⟩
  · rintro ⟨q, n, hdrive, hsteps, hne⟩
    obtain ⟨g, htarget, rfl⟩ := Option.map_eq_some_iff.mp hsteps
    exact ⟨key, q, g, hkey, hdrive, htarget, hne⟩

section Quiet

variable (curves : Vector (List Point) 16) {tw : Tower} (hsound : tw.QueueSound) {ks : List Nat} (hnodup : ks.Nodup)
include hsound hnodup

/-- A quiet refresh leaves every key in the queue there once, QUEUED with a target. -/
theorem Tower.QueueSound.quietRefresh_ready : (tw.quietRefresh curves ks).QueueReady := by
  have hjoining : ∀ k ∈ ks.filter (tw.joinsLine curves), ∃ key q n, tw.keys[k]? = some key ∧ key.drive = .idle q ∧
      (tw.state != .dark && key.joins (tw.presetKey curves k key)) = true ∧ (tw.presetKey curves k key).steps = some n := by
    intro k hk
    have hjoins : tw.joinsLine curves k = true := List.of_mem_filter hk
    cases hkey : tw.keys[k]? with
    | none => simp [Tower.joinsLine, hkey] at hjoins
    | some key =>
      rw [Tower.joinsLine_of_key curves hkey] at hjoins
      obtain ⟨q, n, hdrive, hn, -⟩ := (KeyRec.joins_iff ..).mp (Bool.and_eq_true _ _ ▸ hjoins).2
      exact ⟨key, q, n, rfl, hdrive, hjoins, hn⟩
  refine ⟨List.nodup_append.mpr ⟨hsound.1.filter _, hnodup.filter _, fun k hk j hj e => ?_⟩, fun k hk => ?_⟩
  · subst e
    obtain ⟨key, q, -, hkey, hidle, -⟩ := hjoining k hj
    exact hsound.not_mem hkey (by simp [hidle, Drive.state]) (List.mem_of_mem_filter hk)
  · rw [Tower.getElem?_quietRefresh]
    rcases List.mem_append.mp hk with hmem | hmem
    · obtain ⟨hmem, hstays⟩ := List.mem_filter.mp hmem
      obtain ⟨key, q, hkey, hdrive⟩ := hsound.queued_of_mem hmem
      obtain ⟨n, hn, -⟩ := hsound.queued_steps hkey hdrive
      rw [hkey, Option.map_some]
      by_cases hin : k ∈ ks
      · have hleaves : key.leaves (tw.presetKey curves k key) = false := by
          rw [← Tower.leavesLine_of_key curves hkey]
          simpa [hin] using hstays
        obtain ⟨g, hg⟩ : ∃ g, (tw.presetKey curves k key).target = some g := by
          by_contra hnone
          have hsteps : (tw.presetKey curves k key).steps = none := by
            rw [KeyRec.steps, Option.eq_none_iff_forall_ne_some.mpr fun g hg => hnone ⟨g, hg⟩]
            rfl
          have hleft := (KeyRec.leaves_iff key (tw.presetKey curves k key)).mpr
            ⟨q, hdrive, .inl hsteps, by rw [hsteps, hn]; exact Option.some_ne_none n |>.symm⟩
          rw [hleaves] at hleft
          cases hleft
        refine ⟨_, q, g, rfl, ?_, ?_⟩
        · rw [if_pos hin, Tower.quietRecord_drive_of_queued curves tw k hdrive, hleaves]
          rfl
        · rw [if_pos hin]
          exact hg
      · obtain ⟨g, hg, -⟩ := Option.map_eq_some_iff.mp hn
        rw [if_neg hin]
        exact ⟨key, q, g, rfl, hdrive, hg⟩
    · obtain ⟨key, q, n, hkey, hidle, hjoins, hn⟩ := hjoining k hmem
      obtain ⟨g, hg, -⟩ := Option.map_eq_some_iff.mp hn
      rw [hkey, Option.map_some, if_pos (List.mem_of_mem_filter hmem)]
      refine ⟨_, q, g, rfl, ?_, hg⟩
      rw [Tower.quietRecord_drive_of_idle curves tw k hidle, if_pos hjoins]

end Quiet

section Record

variable (curves : Vector (List Point) 16) (tw : Tower) (k : Nat) (key : KeyRec)

theorem Tower.linedRecord_kept : (tw.linedRecord curves k key).trim = key.trim ∧ (tw.linedRecord curves k key).acc = key.acc ∧
    (tw.linedRecord curves k key).settleUntil = key.settleUntil ∧
    (tw.linedRecord curves k key).drive.position = key.drive.position := by
  obtain ⟨htrim, hacc, hsettle, hposition⟩ := tw.quietRecord_kept curves k key
  refine ⟨htrim, hacc, hsettle, ?_⟩
  unfold Tower.linedRecord
  dsimp only
  split
  · exact (Drive.toQueued_position _).trans hposition
  · exact hposition

variable {key}

theorem Tower.linedRecord_drive_of_other (h : key.drive.state ∈ [DriveState.unknown, .moving, .faulted]) :
    (tw.linedRecord curves k key).drive = key.drive := by
  have hquiet := tw.quietRecord_drive_of_other curves k h
  unfold Tower.linedRecord
  dsimp only
  rw [hquiet]
  split
  · cases hdrive : key.drive <;> rw [hdrive] at h <;> simp_all [Drive.state, Drive.toQueued]
  · rfl

theorem Tower.linedRecord_state_of_unmoved (h : key.drive.state ∈ [DriveState.idle, .queued]) :
    (tw.linedRecord curves k key).drive.state ∈ [DriveState.idle, .queued] := by
  have hquiet := Tower.quietRecord_drive_of_unmoved curves tw k h
  unfold Tower.linedRecord
  dsimp only
  split
  · cases hdrive : (tw.quietRecord curves k key).drive <;> simp_all [Drive.state, Drive.toQueued]
  · exact hquiet

end Record

section Lined

variable (curves : Vector (List Point) 16) {tw : Tower} (hlength : tw.keys.length = tw.z)
include hlength

theorem Tower.mem_allKeys_of_key {k : Nat} {key : KeyRec} (hkey : tw.keys[k]? = some key) : k ∈ tw.allKeys :=
  List.mem_range.mpr (hlength ▸ (List.getElem?_eq_some_iff.mp hkey).1)

theorem Tower.quietRefresh_all_key {k : Nat} {key : KeyRec} (hkey : tw.keys[k]? = some key) :
    (tw.quietRefresh curves tw.allKeys).keys[k]? = some (tw.quietRecord curves k key) := by
  rw [Tower.getElem?_quietRefresh, hkey, Option.map_some, if_pos (Tower.mem_allKeys_of_key hlength hkey)]

theorem Tower.lined_key {k : Nat} {key : KeyRec} (hkey : tw.keys[k]? = some key) :
    (tw.lined curves).keys[k]? = some (tw.linedRecord curves k key) := by
  have hmem := Tower.mem_allKeys_of_key hlength hkey
  rw [Tower.lined, Tower.enqueueAway_eq tw.allKeys_nodup, List.getElem?_mapIdx, Tower.quietRefresh_all_key curves hlength hkey,
    Option.map_some]
  simp only [List.mem_filter, hmem, true_and]
  rfl

omit hlength in
theorem Tower.lined_queue_eq : (tw.lined curves).queue =
    (tw.quietRefresh curves tw.allKeys).queue ++ tw.allKeys.filter (tw.quietRefresh curves tw.allKeys).isAway := by
  rw [Tower.lined, Tower.enqueueAway_eq tw.allKeys_nodup]

/-- An IDLE key of the line stands at its target. -/
theorem Tower.linedRecord_at_target {k q : Nat} {key : KeyRec} (hkey : tw.keys[k]? = some key) {g : Target}
    (hidle : (tw.linedRecord curves k key).drive = .idle q) (htarget : (tw.linedRecord curves k key).target = some g) :
    g.steps = q := by
  have hquiet := Tower.quietRefresh_all_key curves hlength hkey
  by_contra hne
  cases haway : (tw.quietRefresh curves tw.allKeys).isAway k with
  | false =>
    have hdrive : (tw.quietRecord curves k key).drive = .idle q := by simpa [Tower.linedRecord, haway] using hidle
    have hnot := (Tower.isAway_of_key hquiet).mpr ⟨q, g.steps, hdrive, congrArg (Option.map Target.steps) htarget, hne⟩
    rw [haway] at hnot
    cases hnot
  | true =>
    obtain ⟨x, -, hdrive, -⟩ := (Tower.isAway_of_key hquiet).mp haway
    simp [Tower.linedRecord, haway, hdrive, Drive.toQueued] at hidle

variable (hsound : tw.QueueSound)
include hsound

/-- A key waits in the line exactly when its record there is QUEUED. -/
theorem Tower.mem_lined_queue {k : Nat} {key : KeyRec} (hkey : tw.keys[k]? = some key) :
    k ∈ (tw.lined curves).queue ↔ (tw.linedRecord curves k key).drive.state = .queued := by
  have hmem := Tower.mem_allKeys_of_key hlength hkey
  have hquiet := Tower.quietRefresh_all_key curves hlength hkey
  rw [Tower.lined_queue_eq, List.mem_append, hsound.mem_quietRefresh curves hmem hkey, List.mem_filter]
  simp only [hmem, true_and]
  cases haway : (tw.quietRefresh curves tw.allKeys).isAway k with
  | false => simp [Tower.linedRecord, haway]
  | true =>
    obtain ⟨x, -, hdrive, -⟩ := (Tower.isAway_of_key hquiet).mp haway
    simp [Tower.linedRecord, haway, hdrive, Drive.toQueued, Drive.state]

omit hsound in
/-- A key stands away after the refresh exactly where it was IDLE and the refresh left its steps, which are elsewhere. -/
theorem Tower.isAway_quietRefresh (hstate : tw.state ≠ .dark) {tw' : Tower}
    (hsteps : ∀ k : Nat, tw'.keys[k]?.bind KeyRec.steps = tw.keys[k]?.bind fun key => (tw.presetKey curves k key).steps) (k : Nat) :
    (tw.quietRefresh curves tw.allKeys).isAway k =
      ((tw.keys[k]?.map fun key => key.drive.state) == some .idle && tw.leftAway tw' k && tw.stepsMoved tw' k == false) := by
  cases hkey : tw.keys[k]? with
  | none => simp [Tower.isAway, Tower.getElem?_quietRefresh, hkey]
  | some key =>
    have hquiet := Tower.quietRefresh_all_key curves hlength hkey
    have hnew : tw'.keys[k]?.bind KeyRec.steps = (tw.presetKey curves k key).steps := by rw [hsteps, hkey, Option.bind_some]
    have hleft := Tower.leftAway_iff hkey hnew
    have hmoved : tw.stepsMoved tw' k = false ↔ (tw.presetKey curves k key).steps = key.steps := by
      simp [Tower.stepsMoved, hkey, hnew]
    have hrunning : (tw.state != .dark) = true := by simp [hstate]
    rw [Bool.eq_iff_iff, Tower.isAway_of_key hquiet]
    simp only [Option.map_some, Bool.and_eq_true, beq_iff_eq, Option.some.injEq, hleft, hmoved, Tower.quietRecord_steps]
    cases hdrive : key.drive with
    | idle x =>
      rw [Tower.quietRecord_drive_of_idle curves tw k hdrive, hrunning, Bool.true_and]
      constructor
      · rintro ⟨q, n, hidle, hn, hne⟩
        split at hidle
        · cases hidle
        · next hjoins =>
          obtain rfl := Drive.idle.inj hidle
          refine ⟨⟨rfl, x, n, rfl, hn, hne⟩, ?_⟩
          by_contra hchanged
          exact hjoins ((KeyRec.joins_iff ..).mpr ⟨x, n, hdrive, hn, hne, hchanged⟩)
      · rintro ⟨⟨-, q, n, hq, hn, hne⟩, hsame⟩
        obtain rfl := Option.some.inj hq
        rw [KeyRec.joins_eq_false (.inl hsame)]
        exact ⟨x, n, rfl, hn, hne⟩
    | queued x =>
      rw [Tower.quietRecord_drive_of_queued curves tw k hdrive]
      refine iff_of_false ?_ fun h => ?_
      · rintro ⟨q, n, hidle, hn, hne⟩
        split at hidle
        · next hleaves =>
          obtain rfl := Drive.idle.inj hidle
          obtain ⟨q, hq, hnew, -⟩ := (KeyRec.leaves_iff ..).mp hleaves
          obtain rfl := Drive.queued.inj (hdrive.symm.trans hq)
          rcases hnew with hnew | hnew <;> rw [hnew] at hn <;> cases hn
          exact hne rfl
        · cases hidle
      · exact DriveState.noConfusion h.1.1
    | _ =>
      have hother : key.drive.state ∈ [DriveState.unknown, .moving, .faulted] := by simp [hdrive, Drive.state]
      rw [tw.quietRecord_drive_of_other curves k hother, hdrive]
      simp [Drive.state]

/-- The line: the keys still queued, those whose target steps the refresh changed, and then the others that stand away (R128). -/
theorem Tower.lined_queue (hstate : tw.state ≠ .dark) {tw' : Tower}
    (hsteps : ∀ k : Nat, tw'.keys[k]?.bind KeyRec.steps = tw.keys[k]?.bind fun key => (tw.presetKey curves k key).steps) :
    (tw.lined curves).queue = tw.lineAfter tw' ++ tw.idleAway tw' false := by
  rw [Tower.lined_queue_eq, Tower.quietRefresh_queue curves hsound hstate hlength hsteps]
  congr 1
  exact List.filter_congr fun k _ => Tower.isAway_quietRefresh curves hlength hstate hsteps k

omit hlength in
theorem Tower.lined_ready : (tw.lined curves).QueueReady :=
  (hsound.quietRefresh_ready curves tw.allKeys_nodup).enqueueAway _

end Lined

end Sys2Proof.Machine

/-! SUPPORT. What steps 7 to 10 of a job change make of a tower: its keys dispatched from one line, and its SWEEP (R113). -/

namespace Sys2Proof.Machine

/-- The tower with another sweep, last sweep sent and drive port. -/
def Tower.spoken (tw : Tower) (sweep last : Option Nat) (port : DrivePort) : Tower :=
  { tw with sweep := sweep, lastSweep := last, port := port }

/-- The MOVE messages that a dispatch check makes (R127). -/
def Tower.sentMoves (tw : Tower) : List DriveMessage := tw.movesOf (tw.queue.take tw.slots)

theorem Tower.afterDispatch_port (tw : Tower) : tw.afterDispatch.port = tw.port.sendAll tw.sentMoves := rfl

/-- The sweeps and the messages made are no concern of the dispatch check. -/
theorem Tower.afterDispatch_spoken (tw : Tower) (sweep last : Option Nat) (port : DrivePort) :
    (tw.spoken sweep last port).afterDispatch = tw.afterDispatch.spoken sweep last (port.sendAll tw.sentMoves) := rfl

theorem Tower.enqueueAway_spoken (tw : Tower) (sweep last : Option Nat) (port : DrivePort) {ks : List Nat} (hnodup : ks.Nodup) :
    (tw.spoken sweep last port).enqueueAway ks = (tw.enqueueAway ks).spoken sweep last port := by
  rw [Tower.enqueueAway_eq hnodup, Tower.enqueueAway_eq hnodup]
  rfl

theorem DrivePort.sendAll_append (d : DrivePort) (a b : List DriveMessage) : d.sendAll (a ++ b) = (d.sendAll a).sendAll b :=
  List.foldl_append

theorem Tower.movesOf_congr {a b : Tower} (h : ∀ k : Nat, b.keys[k]?.bind KeyRec.steps = a.keys[k]?.bind KeyRec.steps) (ks : List Nat) :
    b.movesOf ks = a.movesOf ks := by
  simp only [Tower.movesOf, h]

theorem Tower.DriveOnly.steps {a b : Tower} (h : a.DriveOnly b) (k : Nat) :
    b.keys[k]?.bind KeyRec.steps = a.keys[k]?.bind KeyRec.steps := by
  have hkeys := congrArg (fun l : List KeyRec => l[k]?.bind KeyRec.steps) h.2
  simp only [List.getElem?_map, Option.bind_map] at hkeys
  exact hkeys

theorem Tower.enqueueAway_queue (tw : Tower) {ks : List Nat} (hnodup : ks.Nodup) :
    (tw.enqueueAway ks).queue = tw.queue ++ ks.filter tw.isAway := by
  rw [Tower.enqueueAway_eq hnodup]

theorem Tower.slots_enqueueAway (tw : Tower) {ks : List Nat} (hnodup : ks.Nodup) : (tw.enqueueAway ks).slots =
    if tw.running then min (tw.queue.length + (ks.filter tw.isAway).length) (tw.config.drive.concurrency - tw.moving) else 0 := by
  rw [Tower.enqueueAway_eq hnodup, ← List.length_append]
  simp only [Tower.slots, Tower.running, Bool.or_eq_true, beq_iff_eq]

/-! ### The sweep (R68, R120, R142) -/

/-- What a SWEEP check of a present sweep sends (R120). -/
def sweepDue (last : Option Nat) (v : Nat) : List DriveMessage := if last = some v then [] else [.sweep v]

theorem sweepDue_sent (v : Nat) : sweepDue (some v) v = [] := if_pos rfl

/-- The sweep refreshed with a COMPLETE RUN slot: a change is sent by a running tower. -/
theorem Tower.refreshSweep_of_complete {tw : Tower} (hc : tw.run.complete = true) :
    tw.refreshSweep = tw.spoken (some tw.presetSweep)
      (if some tw.presetSweep = tw.sweep ∨ tw.running = false then tw.lastSweep else some tw.presetSweep)
      (tw.port.sendAll (if some tw.presetSweep = tw.sweep ∨ tw.running = false then [] else sweepDue tw.lastSweep tw.presetSweep)) := by
  unfold Tower.refreshSweep
  dsimp only
  rw [if_pos hc]
  by_cases hsame : some tw.presetSweep = tw.sweep
  · rw [if_pos hsame, if_pos (.inl hsame), if_pos (.inl hsame), hsame]
    rfl
  · have hsame' : ({ tw with sweep := some tw.presetSweep } : Tower).running = tw.running := rfl
    rw [if_neg hsame, Tower.sweepChange, hsame']
    cases tw.running with
    | false =>
      rw [if_neg Bool.false_ne_true, if_pos (.inr rfl), if_pos (.inr rfl)]
      rfl
    | true =>
      rw [if_pos rfl, if_neg (by simp [hsame]), if_neg (by simp [hsame]), Tower.sweepCheck_eq]
      rfl

/-- The SWEEP check and the drain check that end a job change (R113 steps 9 and 10). -/
theorem Tower.sweepDrain_of_presetting {tw : Tower} (hstate : tw.state = .presetting) {v : Nat} (hsweep : tw.sweep = some v) :
    tw.sweepCheck.drainCheck = { tw.spoken (some v) (some v) (tw.port.sendAll (sweepDue tw.lastSweep v)) with
      state := if tw.queue = [] ∧ tw.moving = 0 then .printing else .presetting } := by
  have hswept : tw.withSweep = tw.spoken (some v) (some v) (tw.port.sendAll (sweepDue tw.lastSweep v)) := by
    unfold Tower.withSweep Tower.sweepMessage
    rw [hsweep]
    rfl
  rw [Tower.sweepCheck_eq, Tower.drainCheck_eq, hswept, Tower.afterDrain]
  by_cases hdrained : tw.queue = [] ∧ tw.moving = 0
  · rw [if_pos hdrained, if_pos (show _ from ⟨hstate, hdrained⟩)]
    have hnone : (tw.spoken (some v) (some v) (tw.port.sendAll (sweepDue tw.lastSweep v))).sweepMessage = [] := if_pos rfl
    rw [Tower.withSweep, hnone]
    rfl
  · rw [if_neg hdrained, if_neg fun h => hdrained h.2, ← hstate]
    rfl

theorem Tower.sweepDrain_spoken {tw : Tower} (hstate : tw.state = .presetting) (v : Nat) (last : Option Nat) (port : DrivePort) :
    (tw.spoken (some v) last port).sweepCheck.drainCheck = { tw.spoken (some v) (some v) (port.sendAll (sweepDue last v)) with
      state := if tw.queue = [] ∧ tw.moving = 0 then .printing else .presetting } :=
  Tower.sweepDrain_of_presetting (tw := tw.spoken (some v) last port) hstate rfl

/-! ### The line sent -/

section Line

variable (curves : Vector (List Point) 16) {tw : Tower} (hsound : tw.QueueSound)
include hsound

/-- Every key refreshed, in a tower that has sent what it can (R57). -/
theorem Tower.refreshAll_eq (hdispatched : tw.DispatchSound) (hpos : 1 ≤ tw.config.drive.concurrency) :
    tw.refresh curves tw.allKeys true = (tw.quietRefresh curves tw.allKeys).dispatch.refreshSweep := by
  show (tw.allKeys.foldl (Tower.refreshKey curves) tw).refreshSweep = _
  congr 1
  cases hrunning : tw.running with
  | false =>
    rw [Tower.refreshKeys_of_stopped curves tw.allKeys_nodup hrunning, Tower.dispatch_quietRefresh_of_stopped curves hrunning]
  | true =>
    have hopen : tw.dispatch = tw ∧ tw.OpenTo tw.allKeys := by
      by_cases hqueue : tw.queue = []
      · have hnone : tw.dispatchHead = none := Option.eq_none_iff_forall_ne_some.mpr fun tw' h => by
          obtain ⟨k, rest, -, -, -, hcons, -⟩ := Tower.dispatchHead_iff.mp h
          rw [hqueue] at hcons
          cases hcons
        refine ⟨Tower.dispatch_of_no_head hnone, hpos, .inr fun k _ => ?_⟩
        rw [← Bool.not_eq_true, ← hsound.2.1 k, hqueue]
        exact List.not_mem_nil
      · have hfull := (hdispatched hrunning hqueue).ge
        exact ⟨Tower.dispatch_of_full hfull, hpos, .inl hfull⟩
    obtain ⟨hstill, hopen⟩ := hopen
    have h := Tower.refreshKeys_dispatch curves tw.allKeys_nodup hopen
    rwa [hstill] at h

/-- The keys that stand away take their places behind the line of the refresh, whatever was said of the sweep between (R113 step 8). -/
theorem Tower.seekTargets_line (hstate : tw.state ≠ .dark) (sweep last : Option Nat) (port : DrivePort) :
    tw.allKeys.foldl Tower.seekTarget ((tw.quietRefresh curves tw.allKeys).dispatch.spoken sweep last port) =
      (tw.lined curves).afterDispatch.spoken sweep last
        (port.sendAll ((tw.quietRefresh curves tw.allKeys).dispatch.enqueueAway tw.allKeys).sentMoves) := by
  have hready := (hsound.quietRefresh_ready curves tw.allKeys_nodup).dispatch
  have hlined : ((tw.quietRefresh curves tw.allKeys).dispatch.enqueueAway tw.allKeys).dispatch = (tw.lined curves).dispatch :=
    Tower.dispatch_enqueueAway tw.allKeys (tw := tw.quietRefresh curves tw.allKeys) hstate
  have hslots := Tower.slots_of_no_head hready (tw.quietRefresh curves tw.allKeys).dispatchHead_dispatch
  have hrunning : (tw.quietRefresh curves tw.allKeys).dispatch.state ≠ .dark := by
    rw [Tower.dispatch_state]
    exact hstate
  rw [Tower.dispatch_eq (hready.enqueueAway tw.allKeys), Tower.dispatch_eq (tw.lined_ready curves hsound)] at hlined
  generalize (tw.quietRefresh curves tw.allKeys).dispatch = sent at *
  have hspoken : (sent.spoken sweep last port).QueueReady := hready
  have hstill : (sent.spoken sweep last port).dispatch = sent.spoken sweep last port :=
    (Tower.dispatch_eq hspoken).trans (Tower.afterDispatch_of_no_slots hslots)
  have hseek := Tower.seekTargets_eq tw.allKeys (tw := sent.spoken sweep last port) hrunning
  rw [hstill, Tower.dispatch_eq (hspoken.enqueueAway _), Tower.enqueueAway_spoken _ _ _ _ tw.allKeys_nodup,
    Tower.afterDispatch_spoken, hlined] at hseek
  exact hseek

/-- The MOVEs made behind those of the refresh: to the first of the keys that joined after it, as many as motor slots are left. -/
theorem Tower.lateMoves_eq : ((tw.quietRefresh curves tw.allKeys).dispatch.enqueueAway tw.allKeys).sentMoves =
    (tw.lined curves).movesOf ((tw.allKeys.filter (tw.quietRefresh curves tw.allKeys).isAway).take
      ((tw.lined curves).slots - (tw.quietRefresh curves tw.allKeys).queue.length)) := by
  have hready := hsound.quietRefresh_ready curves tw.allKeys_nodup
  unfold Tower.lined
  generalize tw.quietRefresh curves tw.allKeys = quiet at *
  have hmoves : (quiet.dispatch.enqueueAway tw.allKeys).movesOf = (quiet.enqueueAway tw.allKeys).movesOf := funext fun ks => by
    rw [Tower.movesOf_congr ((quiet.driveOnly_dispatch.trans (quiet.dispatch.driveOnly_enqueueAway tw.allKeys)).steps),
      Tower.movesOf_congr ((quiet.driveOnly_enqueueAway tw.allKeys).steps)]
  have haway : tw.allKeys.filter quiet.dispatch.isAway = tw.allKeys.filter quiet.isAway :=
    List.filter_congr fun k _ => quiet.isAway_dispatch k
  rw [Tower.sentMoves, hmoves, Tower.enqueueAway_queue _ tw.allKeys_nodup, Tower.slots_enqueueAway _ tw.allKeys_nodup,
    Tower.slots_enqueueAway _ tw.allKeys_nodup, haway, Tower.dispatch_eq hready]
  congr 1
  generalize tw.allKeys.filter quiet.isAway = away
  have hrun : quiet.afterDispatch.running = quiet.running := rfl
  rw [hrun]
  cases hrunning : quiet.running with
  | false => simp
  | true =>
    have hslots := Tower.slots_of_running hrunning
    have hqueue : quiet.afterDispatch.queue = quiet.queue.drop quiet.slots := rfl
    have hmoving : quiet.afterDispatch.config.drive.concurrency - quiet.afterDispatch.moving =
        quiet.config.drive.concurrency - (quiet.moving + quiet.slots) := rfl
    rw [if_pos rfl, if_pos rfl, hqueue, hmoving, List.take_append, List.length_drop]
    by_cases hall : quiet.queue.length ≤ quiet.config.drive.concurrency - quiet.moving
    · rw [List.drop_of_length_le (by omega), List.take_nil, List.nil_append]
      congr 1
      omega
    · rw [show quiet.config.drive.concurrency - (quiet.moving + quiet.slots) = 0 by omega, Nat.min_zero, Nat.zero_sub, List.take_zero,
        List.take_zero, show min (quiet.queue.length + away.length) (quiet.config.drive.concurrency - quiet.moving) -
          quiet.queue.length = 0 by omega]
      rfl

omit hsound in
/-- The MOVEs that the refresh makes: to the first of the keys that it left waiting, as many as motor slots are free. -/
theorem Tower.earlyMoves_eq : (tw.quietRefresh curves tw.allKeys).sentMoves =
    (tw.lined curves).movesOf ((tw.quietRefresh curves tw.allKeys).queue.take (tw.lined curves).slots) := by
  unfold Tower.lined
  generalize tw.quietRefresh curves tw.allKeys = quiet at *
  rw [Tower.sentMoves, Tower.movesOf_congr ((quiet.driveOnly_enqueueAway tw.allKeys).steps), Tower.slots_enqueueAway _ tw.allKeys_nodup]
  congr 1
  cases hrunning : quiet.running with
  | false => rw [Tower.slots_of_stopped hrunning, if_neg Bool.false_ne_true]
  | true =>
    rw [Tower.slots_of_running hrunning, if_pos rfl, List.take_eq_take_iff]
    omega

/-- The MOVEs that the refresh makes, and those made behind them. -/
def Tower.earlyMoves (curves : Vector (List Point) 16) (tw : Tower) : List DriveMessage :=
  (tw.lined curves).movesOf ((tw.quietRefresh curves tw.allKeys).queue.take (tw.lined curves).slots)

def Tower.lateMoves (curves : Vector (List Point) 16) (tw : Tower) : List DriveMessage :=
  (tw.lined curves).movesOf ((tw.allKeys.filter (tw.quietRefresh curves tw.allKeys).isAway).take
    ((tw.lined curves).slots - (tw.quietRefresh curves tw.allKeys).queue.length))

/-- Steps 8 to 10 of a job change, behind a refresh and what it said of the sweep (R113). -/
theorem Tower.finishJobChange_spoken (hstate : tw.state ≠ .dark) (sweep last : Option Nat) (port : DrivePort) :
    ((tw.quietRefresh curves tw.allKeys).dispatch.spoken sweep last port).finishJobChange =
      let sent := (tw.lined curves).afterDispatch.spoken sweep last (port.sendAll (tw.lateMoves curves))
      if tw.state = .presetting then sent.sweepCheck.drainCheck else sent := by
  have hkeys : ((tw.quietRefresh curves tw.allKeys).dispatch.spoken sweep last port).allKeys = tw.allKeys := by
    obtain ⟨⟨hconfig, -⟩, -⟩ := (tw.quietRefresh curves tw.allKeys).driveOnly_dispatch
    exact congrArg (fun c : TowerConfig => List.range c.geometry.z) hconfig
  have hseek := Tower.seekTargets_line curves hsound hstate sweep last port
  rw [Tower.lateMoves_eq curves hsound] at hseek
  have hsent : ((tw.lined curves).afterDispatch.spoken sweep last (port.sendAll (tw.lateMoves curves))).state = tw.state := by
    show (tw.lined curves).state = tw.state
    rw [Tower.lined, Tower.enqueueAway_eq tw.allKeys_nodup]
    rfl
  unfold Tower.finishJobChange
  rw [hkeys, hseek]
  dsimp only
  rw [← hsent]
  rfl

variable (hdispatched : tw.DispatchSound) (hpos : 1 ≤ tw.config.drive.concurrency) (hcomplete : tw.run.complete = true)
include hdispatched hpos hcomplete

theorem Tower.refreshAll_complete : ∃ v,
    tw.refresh curves tw.allKeys true = (tw.quietRefresh curves tw.allKeys).dispatch.spoken (some v)
      (if some v = tw.sweep ∨ tw.running = false then tw.lastSweep else some v)
      (tw.port.sendAll (tw.earlyMoves curves ++ if some v = tw.sweep ∨ tw.running = false then [] else sweepDue tw.lastSweep v)) := by
  have hready := hsound.quietRefresh_ready curves tw.allKeys_nodup
  have hearly : (tw.quietRefresh curves tw.allKeys).dispatch.port = tw.port.sendAll (tw.earlyMoves curves) := by
    rw [Tower.dispatch_eq hready, Tower.afterDispatch_port, Tower.earlyMoves_eq]
    rfl
  have hsame : (tw.quietRefresh curves tw.allKeys).dispatch.sweep = tw.sweep ∧
      (tw.quietRefresh curves tw.allKeys).dispatch.lastSweep = tw.lastSweep ∧
      (tw.quietRefresh curves tw.allKeys).dispatch.running = tw.running ∧
      (tw.quietRefresh curves tw.allKeys).dispatch.run.complete = tw.run.complete := by
    rw [Tower.dispatch_eq hready]
    exact ⟨rfl, rfl, rfl, rfl⟩
  obtain ⟨hsweep, hlast, hrunning, hrun⟩ := hsame
  refine ⟨(tw.quietRefresh curves tw.allKeys).dispatch.presetSweep, ?_⟩
  rw [Tower.refreshAll_eq curves hsound hdispatched hpos, Tower.refreshSweep_of_complete (hrun.trans hcomplete), hsweep, hlast,
    hrunning, hearly, ← DrivePort.sendAll_append]

/-- A job change in a HELD tower: its line, with nothing sent (R113). -/
theorem Tower.finishJobChange_of_held (hheld : tw.state = .held) : ∃ v,
    (tw.refresh curves tw.allKeys true).finishJobChange = (tw.lined curves).afterDispatch.spoken (some v) tw.lastSweep tw.port := by
  have hrunning : tw.running = false := Tower.running_eq_false (.inr hheld)
  have hslots : (tw.lined curves).slots = 0 := by
    rw [Tower.lined, Tower.slots_enqueueAway _ tw.allKeys_nodup]
    exact if_neg (by rw [show (tw.quietRefresh curves tw.allKeys).running = tw.running from rfl, hrunning]; exact Bool.false_ne_true)
  have hnone : tw.earlyMoves curves = [] ∧ tw.lateMoves curves = [] := by
    rw [Tower.earlyMoves, Tower.lateMoves, hslots, Nat.zero_sub, List.take_zero, List.take_zero]
    exact ⟨rfl, rfl⟩
  obtain ⟨hearly, hlate⟩ := hnone
  obtain ⟨v, hrefresh⟩ := Tower.refreshAll_complete curves hsound hdispatched hpos hcomplete
  rw [if_pos (.inr hrunning), if_pos (.inr hrunning), hearly] at hrefresh
  refine ⟨v, ?_⟩
  rw [hrefresh, Tower.finishJobChange_spoken curves hsound (by simp [hheld]), hlate]
  exact if_neg (by simp [hheld])

/-- A job change in a tower that presets: its line dispatched, and its SWEEP, made where the refresh changes it or else last. -/
theorem Tower.finishJobChange_of_presetting (hstate : tw.state = .presetting) : ∃ v,
    (tw.refresh curves tw.allKeys true).finishJobChange = { (tw.lined curves).afterDispatch.spoken (some v) (some v)
        (tw.port.sendAll (if some v = tw.sweep
          then tw.earlyMoves curves ++ tw.lateMoves curves ++ sweepDue tw.lastSweep v
          else tw.earlyMoves curves ++ sweepDue tw.lastSweep v ++ tw.lateMoves curves)) with
      state := if (tw.lined curves).afterDispatch.queue = [] ∧ (tw.lined curves).afterDispatch.moving = 0 then .printing
        else .presetting } := by
  have hrunning : tw.running = true := by simp [Tower.running, hstate]
  have hsent : (tw.lined curves).afterDispatch.state = .presetting := by
    show (tw.lined curves).state = .presetting
    rw [Tower.lined, Tower.enqueueAway_eq tw.allKeys_nodup]
    exact hstate
  obtain ⟨v, hrefresh⟩ := Tower.refreshAll_complete curves hsound hdispatched hpos hcomplete
  refine ⟨v, ?_⟩
  rw [hrefresh, Tower.finishJobChange_spoken curves hsound (by simp [hstate])]
  dsimp only
  rw [if_pos hstate, Tower.sweepDrain_spoken hsent]
  by_cases hsame : some v = tw.sweep
  · rw [if_pos (.inl hsame), if_pos (.inl hsame), if_pos hsame, List.append_nil, DrivePort.sendAll_append, DrivePort.sendAll_append]
  · have hchanged : ¬(some v = tw.sweep ∨ tw.running = false) := by simp [hsame, hrunning]
    rw [if_neg hchanged, if_neg hchanged, if_neg hsame, DrivePort.sendAll_append _ (_ ++ _), sweepDue_sent]
    rfl

end Line

end Sys2Proof.Machine

/-! SUPPORT. JOB CHANGE (R112, R113). -/

namespace Sys2Proof.Machine

/-! ### What the line and its dispatch leave of a key -/

theorem KeyRec.dispatched_of_queued {key : KeyRec} {q : Nat} {g : Target} (hdrive : key.drive = .queued q)
    (htarget : key.target = some g) (timeout : Nat) : key.dispatched timeout = { key with drive := .moving q g.steps timeout } := by
  simp [KeyRec.dispatched, hdrive, htarget]

theorem Tower.afterDispatch_key {tw : Tower} {k : Nat} {key : KeyRec} (hkey : tw.keys[k]? = some key) :
    tw.afterDispatch.keys[k]? =
      some (if k ∈ tw.queue.take tw.slots then key.dispatched tw.config.drive.moveTimeout else key) := by
  show (tw.keys.mapIdx fun k key => if k ∈ tw.queue.take tw.slots then key.dispatched tw.config.drive.moveTimeout else key)[k]? = _
  rw [List.getElem?_mapIdx, hkey]
  rfl

section Line

variable (curves : Vector (List Point) 16) {tw : Tower} (hlength : tw.keys.length = tw.z) (hsound : tw.QueueSound)
include hlength hsound

/-- The target steps that the line and its dispatch leave are those of the refresh. -/
theorem Tower.lined_dispatched_steps (k : Nat) : (tw.lined curves).afterDispatch.keys[k]?.bind KeyRec.steps =
    tw.keys[k]?.bind fun key => (tw.presetKey curves k key).steps := by
  have hsteps := (tw.lined curves).driveOnly_dispatch.steps k
  rw [Tower.dispatch_eq (tw.lined_ready curves hsound)] at hsteps
  rw [hsteps]
  cases hkey : tw.keys[k]? with
  | some key => rw [Tower.lined_key curves hlength hkey]; rfl
  | none =>
    have hnone : (tw.lined curves).keys[k]?.bind KeyRec.steps = (tw.quietRefresh curves tw.allKeys).keys[k]?.bind KeyRec.steps :=
      ((tw.quietRefresh curves tw.allKeys).driveOnly_enqueueAway tw.allKeys).steps k
    rw [hnone, Tower.getElem?_quietRefresh, hkey]
    rfl

/-- A key that the dispatch check sends. -/
theorem Tower.lined_sent_key {k : Nat} (hsent : k ∈ (tw.lined curves).queue.take (tw.lined curves).slots) {key : KeyRec}
    (hkey : tw.keys[k]? = some key) : ∃ q g, (tw.linedRecord curves k key).drive = .queued q ∧
      (tw.linedRecord curves k key).target = some g := by
  obtain ⟨w, q, g, hw, hdrive, htarget⟩ := (tw.lined_ready curves hsound).2 k (List.mem_of_mem_take hsent)
  obtain rfl := Option.some.inj ((Tower.lined_key curves hlength hkey).symm.trans hw)
  exact ⟨q, g, hdrive, htarget⟩

/-- What the line and its dispatch make of one key (R113, R126, R127). -/
theorem Tower.lined_dispatched_key {k : Nat} {key : KeyRec} (hkey : tw.keys[k]? = some key) :
    let line := tw.lined curves
    ∃ key' : KeyRec, line.afterDispatch.keys[k]? = some key' ∧ key'.trim = key.trim ∧ key'.acc = key.acc ∧
      key'.settleUntil = key.settleUntil ∧ key'.drive.position = key.drive.position ∧
      (key.drive.state ∈ [DriveState.unknown, .moving, .faulted] → key'.drive = key.drive) ∧
      (k ∈ line.queue.take line.slots → ∃ q g, key'.target = some g ∧
        key'.drive = .moving q g.steps line.config.drive.moveTimeout) ∧
      (key.drive.state ∈ [DriveState.idle, .queued] → k ∉ line.queue.take line.slots →
        key'.drive.state = if k ∈ line.queue.drop line.slots then .queued else .idle) ∧
      key'.target = (tw.presetKey curves k key).target ∧
      ∀ q g, key'.drive = .idle q → key'.target = some g → g.steps = q := by
  intro line
  obtain ⟨htrim, hacc, hsettle, hposition⟩ := tw.linedRecord_kept curves k key
  have hline := Tower.lined_key curves hlength hkey
  by_cases hsent : k ∈ line.queue.take line.slots
  · obtain ⟨q, g, hdrive, htarget⟩ := Tower.lined_sent_key curves hlength hsound hsent hkey
    have hkey' := Tower.afterDispatch_key hline
    rw [if_pos hsent, KeyRec.dispatched_of_queued hdrive htarget] at hkey'
    refine ⟨_, hkey', htrim, hacc, hsettle, ?_, fun hother => ?_, fun _ => ⟨q, g, htarget, rfl⟩, fun _ hnot => absurd hsent hnot,
      rfl, fun q g hidle => Drive.noConfusion hidle⟩
    · rw [← hposition, hdrive]
      rfl
    · have hsame := tw.linedRecord_drive_of_other curves k hother
      rw [hdrive] at hsame
      simp [← hsame, Drive.state] at hother
  · have hkey' := Tower.afterDispatch_key hline
    rw [if_neg hsent] at hkey'
    have hwaits : k ∈ line.queue.drop line.slots ↔ (tw.linedRecord curves k key).drive.state = .queued := by
      have hsplit : k ∈ line.queue ↔ k ∈ line.queue.take line.slots ∨ k ∈ line.queue.drop line.slots := by
        rw [← List.mem_append, List.take_append_drop]
      rw [← Tower.mem_lined_queue curves hlength hsound hkey]
      exact (hsplit.trans (or_iff_right hsent)).symm
    refine ⟨_, hkey', htrim, hacc, hsettle, hposition, tw.linedRecord_drive_of_other curves k, fun h => absurd h hsent,
      fun hunmoved _ => ?_, rfl, fun q g hidle htarget => Tower.linedRecord_at_target curves hlength hkey hidle htarget⟩
    have hstate := tw.linedRecord_state_of_unmoved curves k hunmoved
    simp only [List.mem_cons, List.not_mem_nil, or_false] at hstate
    simp only [hwaits]
    rcases hstate with e | e <;> simp [e]

end Line

/-! ### The tower before the refresh of a job change -/

section ChangeJob

variable {tw : Tower} (keep : Bool) (sheets : Sheet)

theorem Tower.changeJob_length : (tw.changeJob keep sheets).keys.length = tw.keys.length := by
  rw [Tower.changeJob, List.length_map]

theorem Tower.changeJob_key {k : Nat} {key : KeyRec} (hkey : tw.keys[k]? = some key) :
    (tw.changeJob keep sheets).keys[k]? =
      some { key with trim := if keep then key.trim else 0, acc := 0, settleUntil := tw.windowEnd sheets } := by
  show (tw.keys.map _)[k]? = _
  rw [List.getElem?_map, hkey]
  rfl

theorem Tower.changeJob_aim (k : Nat) : (tw.changeJob keep sheets).keys[k]?.map KeyRec.aim = tw.keys[k]?.map KeyRec.aim := by
  refine Tower.aim_map (f := fun key => { key with trim := if keep then key.trim else 0, acc := 0, settleUntil := tw.windowEnd sheets })
    (fun _ => rfl) k

theorem Tower.QueueSound.changeJob (h : tw.QueueSound) : (tw.changeJob keep sheets).QueueSound := by
  obtain ⟨hnodup, hmem, -, haway⟩ := h
  refine ⟨hnodup, fun k => ?_, fun hdark => ?_, fun key hkey => ?_⟩
  · have hstate := congrArg (Option.map fun aim : Drive × Option Target => aim.1.state) (tw.changeJob_aim keep sheets k)
    rw [Option.map_map, Option.map_map] at hstate
    rw [show (tw.changeJob keep sheets).isQueued k = tw.isQueued k from congrArg (· == some DriveState.queued) hstate]
    exact hmem k
  · simp only [Tower.changeJob] at hdark
    split at hdark <;> cases hdark
  · obtain ⟨old, hold, rfl⟩ := List.mem_map.mp hkey
    exact haway old hold

theorem Tower.DispatchSound.changeJob (h : tw.DispatchSound) (hsound : tw.QueueSound) (hstate : tw.state ≠ .presetting) :
    (tw.changeJob keep sheets).DispatchSound := by
  intro hrunning hqueue
  cases hs : tw.state with
  | dark => exact absurd (hsound.2.2.1 hs) hqueue
  | presetting => exact absurd hs hstate
  | printing => exact h (by simp [Tower.running, hs]) hqueue
  | held => simp [Tower.running, Tower.changeJob, hs] at hrunning

theorem Tower.lineAfter_changeJob (tw' : Tower) : (tw.changeJob keep sheets).lineAfter tw' = tw.lineAfter tw' ∧
    (tw.changeJob keep sheets).idleAway tw' false = tw.idleAway tw' false := by
  have hread : ∀ {α : Type} (f : Drive × Option Target → Option α) (k : Nat),
      ((tw.changeJob keep sheets).keys[k]?.bind fun key => f key.aim) = tw.keys[k]?.bind fun key => f key.aim := fun f k => by
    have h := congrArg (Option.bind · f) (tw.changeJob_aim keep sheets k)
    rwa [Option.bind_map, Option.bind_map] at h
  have hstate : ∀ k : Nat, (tw.changeJob keep sheets).keys[k]?.map (fun key => key.drive.state) = tw.keys[k]?.map fun key =>
      key.drive.state := fun k => by
    rw [Option.map_eq_bind, Option.map_eq_bind]
    exact hread (fun aim => some aim.1.state) k
  have hposition : ∀ k : Nat, ((tw.changeJob keep sheets).keys[k]?.bind fun key => key.drive.position) =
      tw.keys[k]?.bind fun key => key.drive.position := hread fun aim => aim.1.position
  have hsteps : ∀ k : Nat, (tw.changeJob keep sheets).keys[k]?.bind KeyRec.steps = tw.keys[k]?.bind KeyRec.steps :=
    hread fun aim => aim.2.map Target.steps
  have hleft : (tw.changeJob keep sheets).leftAway tw' = tw.leftAway tw' := funext fun k => by
    rw [Tower.leftAway, Tower.leftAway, hposition]
  have hmoved : (tw.changeJob keep sheets).stepsMoved tw' = tw.stepsMoved tw' := funext fun k => by
    rw [Tower.stepsMoved, Tower.stepsMoved, hsteps]
  have hidle : ∀ moved, (tw.changeJob keep sheets).idleAway tw' moved = tw.idleAway tw' moved := fun moved => by
    simp only [Tower.idleAway, hleft, hmoved, hstate]
    rfl
  refine ⟨?_, hidle false⟩
  rw [Tower.lineAfter, hleft, hidle]
  rfl

end ChangeJob

end Sys2Proof.Machine

/-! SUPPORT. JOB CHANGE settled (R112, R113). -/

namespace Sys2Proof.Machine

/-- The tower that an accepted JOB CHANGE leaves (R113). -/
def Tower.jobChanged (curves : Vector (List Point) 16) (tw : Tower) (keep : Bool) (sheets : Sheet) : Tower :=
  ((tw.changeJob keep sheets).refresh curves (tw.changeJob keep sheets).allKeys true).finishJobChange

theorem State.jobChange_tower_same (s : State) (t : TowerIx) (keep : Bool) :
    (s.jobChange t keep).tower t = (s.tower t).jobChanged s.curves keep s.sheets := by
  rw [State.jobChange_tower, if_pos rfl]
  rfl

theorem State.jobChange_sameBut (s : State) (t : TowerIx) (keep : Bool) : SameBut t s (s.jobChange t keep) :=
  ((s.setTower_sameBut t _).trans (State.refreshTower_sameBut _ t)).trans (State.setTower_sameBut _ t _)

theorem Tower.lined_slots (curves : Vector (List Point) 16) (tw : Tower) : (tw.lined curves).slots =
    if tw.running then min (tw.lined curves).queue.length (tw.config.drive.concurrency - tw.moving) else 0 := by
  rw [Tower.lined, Tower.slots_enqueueAway _ tw.allKeys_nodup, Tower.enqueueAway_queue _ tw.allKeys_nodup, List.length_append]
  rfl

theorem Tower.lined_kept (curves : Vector (List Point) 16) (tw : Tower) :
    (tw.lined curves).config = tw.config ∧ (tw.lined curves).moving = tw.moving ∧ (tw.lined curves).state = tw.state := by
  rw [Tower.lined, Tower.enqueueAway_eq tw.allKeys_nodup]
  exact ⟨rfl, rfl, rfl⟩

theorem Tower.ShapeSound.concurrency_pos {tw : Tower} (h : tw.ShapeSound) : 1 ≤ tw.config.drive.concurrency := by
  obtain ⟨⟨hrange, -⟩, -⟩ := h
  obtain ⟨-, -, -, -, -, -, -, -, -, -, ⟨hpos, -⟩, -⟩ := tw.config.inRange_iff.mp hrange
  exact hpos

section JobChanged

variable (curves : Vector (List Point) 16) {tw : Tower} (keep : Bool) (sheets : Sheet)

theorem Tower.jobChanged_length : (tw.jobChanged curves keep sheets).keys.length = tw.keys.length :=
  ((Tower.keeps_refresh ..).trans (Tower.carries_finishJobChange _).keeps).length.trans (tw.changeJob_length keep sheets)

theorem Tower.jobChanged_presetsCurrent (hlength : tw.keys.length = tw.z) : (tw.jobChanged curves keep sheets).PresetsCurrent curves :=
  (Tower.carries_finishJobChange _).presetsCurrent
    (Tower.refreshAll_presetsCurrent curves (tw := tw.changeJob keep sheets) ((tw.changeJob_length keep sheets).trans hlength))

/-- A key of an INCOMPLETE curve holds its target through the refresh of a job change (R61). -/
theorem Tower.presetKey_changeJob_of_incomplete (hcomplete : tw.next.complete = true) {k : Nat}
    (hcurve : (curves.get (tw.curveOf k)).length < 2) (key : KeyRec) :
    ((tw.changeJob keep sheets).presetKey curves k key).target = key.target.map (heldOf tw.config) := by
  rw [Tower.presetKey_of_complete (show (tw.changeJob keep sheets).run.complete = true from hcomplete)]
  exact Tower.presetTarget_of_incomplete (tw := tw.changeJob keep sheets) hcurve key

variable (hshape : tw.ShapeSound) (hsound : tw.QueueSound) (hdispatched : tw.DispatchSound) (hstate : tw.state ≠ .presetting)
  (hcomplete : tw.next.complete = true)
include hshape hsound hdispatched hstate hcomplete

theorem Tower.jobChanged_of_held (hheld : tw.state = .held) : ∃ v, tw.jobChanged curves keep sheets =
    ((tw.changeJob keep sheets).lined curves).afterDispatch.spoken (some v) tw.lastSweep tw.port := by
  exact Tower.finishJobChange_of_held curves (hsound.changeJob keep sheets) (hdispatched.changeJob keep sheets hsound hstate)
    hshape.concurrency_pos hcomplete (if_pos hheld)

theorem Tower.jobChanged_of_not_held (hheld : tw.state ≠ .held) : ∃ v,
    let line := (tw.changeJob keep sheets).lined curves
    let early := (tw.changeJob keep sheets).earlyMoves curves
    let late := (tw.changeJob keep sheets).lateMoves curves
    tw.jobChanged curves keep sheets = { line.afterDispatch.spoken (some v) (some v)
        (tw.port.sendAll (if some v = tw.sweep then early ++ late ++ sweepDue tw.lastSweep v
          else early ++ sweepDue tw.lastSweep v ++ late)) with
      state := if line.afterDispatch.queue = [] ∧ line.afterDispatch.moving = 0 then .printing else .presetting } := by
  exact Tower.finishJobChange_of_presetting curves (hsound.changeJob keep sheets) (hdispatched.changeJob keep sheets hsound hstate)
    hshape.concurrency_pos hcomplete (if_neg hheld)

/-- A job changed tower is the line dispatched, but for its state, its sweeps and its messages. -/
theorem Tower.jobChanged_sent : let sent := ((tw.changeJob keep sheets).lined curves).afterDispatch
    (tw.jobChanged curves keep sheets).keys = sent.keys ∧ (tw.jobChanged curves keep sheets).queue = sent.queue ∧
    (tw.jobChanged curves keep sheets).moving = sent.moving ∧ (tw.jobChanged curves keep sheets).run = tw.next ∧
    (tw.jobChanged curves keep sheets).next = { coverage := List.replicate tw.z none, tag := none, mirrored := false } ∧
    (tw.jobChanged curves keep sheets).config = tw.config ∧ (tw.jobChanged curves keep sheets).counters = LoopCounters.zero := by
  intro sent
  have hline : sent.run = tw.next ∧ sent.next = Slot.emptied tw.next.coverage.length ∧ sent.config = tw.config ∧
      sent.counters = LoopCounters.zero := by
    show ((tw.changeJob keep sheets).lined curves).run = _ ∧ ((tw.changeJob keep sheets).lined curves).next = _ ∧
      ((tw.changeJob keep sheets).lined curves).config = _ ∧ ((tw.changeJob keep sheets).lined curves).counters = _
    rw [Tower.lined, Tower.enqueueAway_eq (Tower.allKeys_nodup _)]
    exact ⟨rfl, rfl, rfl, rfl⟩
  obtain ⟨hrun, hnext, hconfig, hcounters⟩ := hline
  rw [hshape.2.2.2.1] at hnext
  by_cases hheld : tw.state = .held
  · obtain ⟨v, h⟩ := Tower.jobChanged_of_held curves keep sheets hshape hsound hdispatched hstate hcomplete hheld
    rw [h]
    exact ⟨rfl, rfl, rfl, hrun, hnext, hconfig, hcounters⟩
  · obtain ⟨v, h⟩ := Tower.jobChanged_of_not_held curves keep sheets hshape hsound hdispatched hstate hcomplete hheld
    rw [h]
    exact ⟨rfl, rfl, rfl, hrun, hnext, hconfig, hcounters⟩

/-- The target steps that a job change leaves are those that its refresh computes. -/
theorem Tower.jobChanged_steps (k : Nat) : (tw.jobChanged curves keep sheets).keys[k]?.bind KeyRec.steps =
    (tw.changeJob keep sheets).keys[k]?.bind fun key => ((tw.changeJob keep sheets).presetKey curves k key).steps := by
  obtain ⟨hkeys, -⟩ := Tower.jobChanged_sent curves keep sheets hshape hsound hdispatched hstate hcomplete
  rw [hkeys]
  exact Tower.lined_dispatched_steps curves ((tw.changeJob_length keep sheets).trans hshape.2.1) (hsound.changeJob keep sheets) k

/-- The line of a job change: the keys that its refresh left waiting, and behind them the others that stand away (R113, R128). -/
theorem Tower.jobChanged_line : let tw' := tw.jobChanged curves keep sheets
    ((tw.changeJob keep sheets).quietRefresh curves (tw.changeJob keep sheets).allKeys).queue = tw.lineAfter tw' ∧
    (tw.changeJob keep sheets).allKeys.filter
      ((tw.changeJob keep sheets).quietRefresh curves (tw.changeJob keep sheets).allKeys).isAway = tw.idleAway tw' false ∧
    ((tw.changeJob keep sheets).lined curves).queue = tw.lineAfter tw' ++ tw.idleAway tw' false := by
  intro tw'
  have hlength : (tw.changeJob keep sheets).keys.length = (tw.changeJob keep sheets).z :=
    (tw.changeJob_length keep sheets).trans hshape.2.1
  have hlit : (tw.changeJob keep sheets).state ≠ .dark := by
    simp only [Tower.changeJob]
    split <;> simp
  have hsteps := Tower.jobChanged_steps curves keep sheets hshape hsound hdispatched hstate hcomplete
  have hqueue := Tower.quietRefresh_queue curves (hsound.changeJob keep sheets) hlit hlength hsteps
  obtain ⟨hline, hidle⟩ := tw.lineAfter_changeJob keep sheets tw'
  have haway : (tw.changeJob keep sheets).allKeys.filter
      ((tw.changeJob keep sheets).quietRefresh curves (tw.changeJob keep sheets).allKeys).isAway =
      (tw.changeJob keep sheets).idleAway tw' false :=
    List.filter_congr fun k _ => Tower.isAway_quietRefresh curves hlength hlit hsteps k
  refine ⟨hqueue.trans hline, haway.trans hidle, ?_⟩
  rw [Tower.lined_queue curves hlength (hsound.changeJob keep sheets) hlit hsteps, hline, hidle]

/-- How many of them are sent: none by a HELD tower, else as many as there are free motor slots (R127). -/
theorem Tower.jobChanged_slots : let tw' := tw.jobChanged curves keep sheets
    ((tw.changeJob keep sheets).lined curves).slots = if tw.state = .held then 0
      else min (tw.lineAfter tw' ++ tw.idleAway tw' false).length (tw.config.drive.concurrency - tw.moving) := by
  intro tw'
  obtain ⟨-, -, hline⟩ := Tower.jobChanged_line curves keep sheets hshape hsound hdispatched hstate hcomplete
  have hrunning : (tw.changeJob keep sheets).running = true ↔ tw.state ≠ .held := by
    by_cases hheld : tw.state = .held <;> simp [Tower.running, Tower.changeJob, hheld]
  rw [Tower.lined_slots, hline]
  by_cases hheld : tw.state = .held
  · rw [if_pos hheld, if_neg (mt hrunning.mp (not_not_intro hheld))]
  · rw [if_neg hheld, if_pos (hrunning.mpr hheld)]
    rfl

/-- The MOVEs of a job change, said of the tower it leaves. -/
theorem Tower.jobChanged_moves : let tw' := tw.jobChanged curves keep sheets
    let n := ((tw.changeJob keep sheets).lined curves).slots
    (tw.changeJob keep sheets).earlyMoves curves = tw'.movesOf ((tw.lineAfter tw').take n) ∧
    (tw.changeJob keep sheets).lateMoves curves = tw'.movesOf ((tw.idleAway tw' false).take (n - (tw.lineAfter tw').length)) := by
  intro tw' n
  obtain ⟨hfirst, haway, -⟩ := Tower.jobChanged_line curves keep sheets hshape hsound hdispatched hstate hcomplete
  obtain ⟨hkeys, -⟩ := Tower.jobChanged_sent curves keep sheets hshape hsound hdispatched hstate hcomplete
  have hready := (tw.changeJob keep sheets).lined_ready curves (hsound.changeJob keep sheets)
  have hmoves : ∀ ks, tw'.movesOf ks = ((tw.changeJob keep sheets).lined curves).movesOf ks := Tower.movesOf_congr fun k => by
    have hsteps := ((tw.changeJob keep sheets).lined curves).driveOnly_dispatch.steps k
    rw [Tower.dispatch_eq hready, ← hkeys] at hsteps
    exact hsteps
  rw [hmoves, hmoves, Tower.earlyMoves, Tower.lateMoves, hfirst, haway]
  exact ⟨rfl, rfl⟩

/-- What a job change makes of each key (R113). -/
theorem Tower.jobChanged_key {k : Nat} {key : KeyRec} (hkey : tw.keys[k]? = some key) :
    let tw' := tw.jobChanged curves keep sheets
    let n := ((tw.changeJob keep sheets).lined curves).slots
    let line := tw.lineAfter tw' ++ tw.idleAway tw' false
    ∃ key' : KeyRec, tw'.keys[k]? = some key' ∧ key'.trim = (if keep then key.trim else 0) ∧ key'.acc = 0 ∧
      key'.settleUntil = tw.windowEnd sheets ∧ key'.drive.position = key.drive.position ∧
      (key.drive.state ∈ [DriveState.unknown, .moving, .faulted] → key'.drive = key.drive) ∧
      (k ∈ line.take n → ∃ q g, key'.target = some g ∧ key'.drive = .moving q g.steps tw.config.drive.moveTimeout) ∧
      (key.drive.state ∈ [DriveState.idle, .queued] → k ∉ line.take n →
        key'.drive.state = if k ∈ tw'.queue then .queued else .idle) ∧
      ((curves.get (tw.curveOf k)).length < 2 → key'.target = key.target.map (heldOf tw.config)) ∧
      ∀ q g, key'.drive = .idle q → key'.target = some g → g.steps = q := by
  intro tw' n line
  obtain ⟨hkeys, hqueue, -⟩ := Tower.jobChanged_sent curves keep sheets hshape hsound hdispatched hstate hcomplete
  obtain ⟨-, -, hline⟩ := Tower.jobChanged_line curves keep sheets hshape hsound hdispatched hstate hcomplete
  have hlength : (tw.changeJob keep sheets).keys.length = (tw.changeJob keep sheets).z :=
    (tw.changeJob_length keep sheets).trans hshape.2.1
  have hconfig : ((tw.changeJob keep sheets).lined curves).config = tw.config := (Tower.lined_kept curves _).1
  have hspec := Tower.lined_dispatched_key curves hlength (hsound.changeJob keep sheets) (tw.changeJob_key keep sheets hkey)
  dsimp only at hspec
  rw [← hkeys, hline, hconfig] at hspec
  obtain ⟨key', hkey', htrim, hacc, hsettle, hposition, hother, hsent, hunmoved, htarget, hat⟩ := hspec
  have hdrop : tw'.queue = line.drop n := by
    rw [hqueue, show line = _ from hline.symm]
    rfl
  refine ⟨key', hkey', htrim, hacc, hsettle, hposition, hother, hsent, fun h hnot => ?_, fun hcurve => ?_, hat⟩
  · rw [hdrop]
    exact hunmoved h hnot
  · exact htarget.trans (Tower.presetKey_changeJob_of_incomplete curves keep sheets hcomplete hcurve _)

end JobChanged

/-! ### The fault of the refresh (R62) -/

theorem State.faultsAfter_congr (s : State) (t : TowerIx) {a b : Tower} (hrun : b.run = a.run) (hconfig : b.config = a.config) :
    s.faultsAfter t b = s.faultsAfter t a := by
  rw [State.faultsAfter, State.faultsAfter, hrun]
  exact if_congr (by simp only [Tower.z, Tower.curveOf, hconfig]) rfl rfl

theorem State.jobChange_faults (s : State) (t : TowerIx) (keep : Bool) :
    (s.jobChange t keep).faults = s.faultsAfter t ((s.jobChange t keep).tower t) := by
  have hrefresh := State.refreshTower_faults (s.setTower t ((s.tower t).changeJob keep s.sheets)) t
  refine Eq.trans hrefresh ?_
  have hkeeps := (Tower.carries_finishJobChange
    (((s.setTower t ((s.tower t).changeJob keep s.sheets)).refreshTower t).tower t)).keeps
  have htower : (s.jobChange t keep).tower t =
      (((s.setTower t ((s.tower t).changeJob keep s.sheets)).refreshTower t).tower t).finishJobChange := State.tower_setTower_same _ t _
  rw [htower, State.faultsAfter_congr s t hkeeps.run hkeeps.config]
  rfl


/-! ### The request -/

theorem State.earlyRefusal_jobChange (s : State) (b f : Byte) : s.earlyRefusal .console .jobChange [b, f] = none :=
  State.earlyRefusal_of_no_member (Nat.zero_le _) rfl rfl

section Request

variable {s : State} (hfree : s.busy .console = false) {t : TowerIx} {b f : Byte} (hb : b.toNat = t.val) (hf : f.toNat ≤ 1)

include hb hf in
theorem takeJobChange_eq : takeJobChange .console [b, f] s =
    if (s.tower t).state = .presetting then .error .busy
    else if !(s.tower t).next.complete then .error .incomplete
    else if (s.tower t).state = .dark ∧ (s.tower t).hasUnknown then .error .notReady
    else .ok (s.jobChange t (decide (f.toNat = 1)), .ok, []) := by
  simp only [takeJobChange, readTower_of_toNat hb, readFlag_of_le hf]

include hfree in
theorem exec_jobChange_of_range (hbad : 12 ≤ b.toNat ∨ 2 ≤ f.toNat) :
    exec (.jobChange .console [b, f]) s = .next (s.sendReply .console [0xB3#8, 0x07#8]) := by
  refine exec_of_error (fn := .jobChange) (r := .range) hfree (s.earlyRefusal_jobChange b f) ?_
  show takeJobChange .console [b, f] s = _
  rcases hbad with hb | hf
  · simp only [takeJobChange, readTower_none hb]
  · cases hb : readTower b <;> simp only [takeJobChange, hb, readFlag_none hf]

include hfree in
theorem exec_jobChange_of_error {r : Result} (htake : takeJobChange .console [b, f] s = .error r) :
    exec (.jobChange .console [b, f]) s = .next (s.sendReply .console [0xB3#8, r.code]) :=
  exec_of_error (fn := .jobChange) hfree (s.earlyRefusal_jobChange b f) htake

end Request

/-- Settles O46. -/
theorem jobChangeBringsPlateIn : Obligations.JobChangeBringsPlateIn := by
  refine ⟨fun b f s hfree hbad => exec_jobChange_of_range hfree hbad, fun t b f s hfree hb hf => ?_⟩
  intro tw answer refused unready
  have htake := takeJobChange_eq (s := s) hb hf
  have hunready : (tw.state = .dark ∧ tw.hasUnknown = true) ↔ unready := and_congr_right fun _ => tw.hasUnknown_iff
  refine ⟨fun hstate => exec_jobChange_of_error (r := .busy) hfree (htake.trans (if_pos hstate)),
    fun hstate hnext => exec_jobChange_of_error (r := .incomplete) hfree (htake.trans ?_),
    fun hstate hnext h => exec_jobChange_of_error (r := .notReady) hfree (htake.trans ?_),
    fun hstate hnext h hshape hsound hdispatched => ?_⟩
  · rw [if_neg hstate, hnext]
    rfl
  · rw [if_neg hstate, hnext]
    exact if_pos (hunready.mpr h)
  rw [if_neg hstate, hnext] at htake
  replace htake := htake.trans (if_neg (mt hunready.mp h))
  set keep := decide (f.toNat = 1) with hkeep
  have hexec := exec_of_ok (fn := .jobChange) hfree (s.earlyRefusal_jobChange b f) htake
  refine ⟨_, hexec, (s.jobChange_sameBut t keep).sendReply .console _,
    State.sendReply_masters_congr (s.jobChange_masters t keep) .console _, ?_⟩
  have htower : ((s.jobChange t keep).sendReply .console [replyByte MasterFn.jobChange.code, Result.ok.code]).tower t =
      tw.jobChanged s.curves keep s.sheets := (State.sendReply_tower ..).trans (s.jobChange_tower_same t keep)
  have hsent := Tower.jobChanged_sent s.curves keep s.sheets hshape hsound hdispatched hstate hnext
  have hline := Tower.jobChanged_line s.curves keep s.sheets hshape hsound hdispatched hstate hnext
  have hslots := Tower.jobChanged_slots s.curves keep s.sheets hshape hsound hdispatched hstate hnext
  have hheldCase := Tower.jobChanged_of_held s.curves keep s.sheets hshape hsound hdispatched hstate hnext
  have hother := Tower.jobChanged_of_not_held s.curves keep s.sheets hshape hsound hdispatched hstate hnext
  have hfaults := s.jobChange_faults t keep
  rw [s.jobChange_tower_same] at hfaults
  dsimp only at hsent hline hslots hother
  obtain ⟨hkeys, hqueue, hmoving, hrun, hnextSlot, hconfig, hcounters⟩ := hsent
  obtain ⟨hfirst, haway, hall⟩ := hline
  have hmoves := Tower.jobChanged_moves s.curves keep s.sheets hshape hsound hdispatched hstate hnext
  have hkey := @Tower.jobChanged_key s.curves tw keep s.sheets hshape hsound hdispatched hstate hnext
  have hcurrent := Tower.jobChanged_presetsCurrent s.curves (tw := tw) keep s.sheets hshape.2.1
  dsimp only at hmoves hkey
  rw [htower]
  obtain ⟨hearly, hlate⟩ := hmoves
  have hcount := Tower.jobChanged_length s.curves (tw := tw) keep s.sheets
  obtain ⟨-, hkept, hlineState⟩ := Tower.lined_kept s.curves (tw.changeJob keep s.sheets)
  generalize tw.jobChanged s.curves keep s.sheets = tw' at *
  generalize (tw.changeJob keep s.sheets).lined s.curves = line at *
  dsimp only
  rw [← hslots]
  refine ⟨hfaults, ?_, ?_, fun hheld => ?_, hrun, hnextSlot, hconfig, ?_, hcounters, ?_, fun k key hk => ?_, fun hheld => ?_,
    fun hheld => ?_⟩
  · rw [hqueue, ← hall]
    rfl
  · rw [hmoving, show tw.moving = line.moving from hkept.symm]
    rfl
  · obtain ⟨v, hv⟩ := hother hheld
    have hsweep : tw'.sweep = some v := congrArg Tower.sweep hv
    rw [hsweep]
    refine (congrArg Tower.port hv).trans ?_
    rw [hearly, hlate]
    rfl
  · rw [State.sendReply_curves, State.jobChange_curves]
    exact hcurrent
  · exact hcount
  · obtain ⟨key', hkey', htrim, hacc, hsettle, hposition, hrest⟩ := hkey hk
    refine ⟨key', hkey', ?_, hacc, hsettle, hposition, hrest⟩
    rw [htrim, hkeep]
    simp only [decide_eq_true_eq]
  · obtain ⟨v, hv⟩ := hheldCase hheld
    have hnone : line.slots = 0 := hslots.trans (if_pos hheld)
    refine ⟨(congrArg Tower.state hv).trans (hlineState.trans (if_pos hheld)), (congrArg Tower.lastSweep hv :), ?_,
      (congrArg Tower.port hv :)⟩
    rw [hmoving, show tw.moving = line.moving from hkept.symm, ← Nat.add_zero line.moving, ← hnone]
    rfl
  · obtain ⟨v, hv⟩ := hother hheld
    have hsweep : tw'.sweep = some v := congrArg Tower.sweep hv
    refine ⟨(congrArg Tower.lastSweep hv).trans hsweep.symm, (congrArg Tower.state hv).trans ?_⟩
    rw [hqueue, hmoving]

end Sys2Proof.Machine
